-- ==== Sys2Proof/Word.lean ====
section
/-! DEFINITION. The widths of the block's ports and bytes (spec/30_encoding.md R70, R71, R74). -/

namespace Sys2Proof

/-- One byte of a header buffer (R20). -/
abbrev Byte := BitVec 8

/-- The command word `cmd` (R71). -/
abbrev Cmd := BitVec 6

/-- The FIELD bits of a command word, a field code (R71, R73). -/
abbrev FieldCode := BitVec 4

/-- The value bus, `VAL_BITS` = 64 bits: `wdata` and `rdata` (R5, R74, R76). -/
abbrev Value := BitVec 64

end Sys2Proof
end

