-- ==== Sys2Proof/Syntax.lean ====
section
/-! DEFINITION. The instructions: one constructor per row of spec/opcode_table.json, in the table's order. -/

namespace Sys2Proof

/-- The 28 rows of the opcode map (spec/30_encoding.md R78). A row that covers several command words carries
the FIELD bits of the word, so that no bit of a command word is lost. A SET's value is not in the word: it is
the request's `wdata` (R74). -/
inductive Instr where
  /-- GET STREAM_ID, cmd 0x00 (R131). -/
  | getStreamId
  /-- GET SV, cmd 0x01 (R132). -/
  | getSv
  /-- GET MR, cmd 0x02 (R133). -/
  | getMr
  /-- GET FS, cmd 0x03 (R134). -/
  | getFs
  /-- GET TV, cmd 0x04, an illegal encoding (R135). -/
  | getTv
  /-- GET TU, cmd 0x05 (R136). -/
  | getTu
  /-- GET SEQ_NUM, cmd 0x06 (R137). -/
  | getSeqNum
  /-- GET TYPE, cmd 0x07 (R138). -/
  | getType
  /-- GET BASE_FREQ, cmd 0x08 (R139). -/
  | getBaseFreq
  /-- GET CRF_DATA_LEN, cmd 0x09 (R140). -/
  | getCrfDataLen
  /-- GET TIMESTAMP_INTERVAL, cmd 0x0A (R141). -/
  | getTimestampInterval
  /-- GET PULL, cmd 0x0B (R142). -/
  | getPull
  /-- GET of an unrecognised field, cmd 0x0C to 0x0F: FIELD is 12 to 15 (R143). -/
  | getUnrecognised (field : FieldCode)
  /-- SET STREAM_ID, cmd 0x10 (R151). -/
  | setStreamId
  /-- SET SV, cmd 0x11 (R152). -/
  | setSv
  /-- SET MR, cmd 0x12 (R153). -/
  | setMr
  /-- SET FS, cmd 0x13 (R154). -/
  | setFs
  /-- SET TV, cmd 0x14 (R155). -/
  | setTv
  /-- SET TU, cmd 0x15 (R156). -/
  | setTu
  /-- SET SEQ_NUM, cmd 0x16 (R157). -/
  | setSeqNum
  /-- SET TYPE, cmd 0x17 (R158). -/
  | setType
  /-- SET BASE_FREQ, cmd 0x18 (R159). -/
  | setBaseFreq
  /-- SET CRF_DATA_LEN, cmd 0x19 (R160). -/
  | setCrfDataLen
  /-- SET TIMESTAMP_INTERVAL, cmd 0x1A (R161). -/
  | setTimestampInterval
  /-- SET PULL, cmd 0x1B (R162). -/
  | setPull
  /-- SET of an unrecognised field, cmd 0x1C to 0x1F: FIELD is 12 to 15 (R163). -/
  | setUnrecognised (field : FieldCode)
  /-- INIT, cmd 0x20 to 0x2F: FIELD is any code and is ignored; the canonical form has 0 (R170). -/
  | init (field : FieldCode)
  /-- RSV, the reserved OP, cmd 0x30 to 0x3F: FIELD is any code and is ignored (R79). -/
  | rsv (field : FieldCode)
  deriving DecidableEq, Repr

end Sys2Proof
end

