-- ==== Sys2Proof/WellFormed.lean ====
section
/-! DEFINITION. Which terms of `Instr` are instructions: the FIELD of an unrecognised GET or SET names no field. -/

namespace Sys2Proof

/-- FIELD codes 12 to 15 name no field (spec/10_state.md R24, spec/30_encoding.md R73). -/
def namesNoField (field : FieldCode) : Bool :=
  decide (12 ≤ field.toNat)

/-- A term of `Instr` that stands for a command word. The two unrecognised rows cover FIELD 12 to 15 only
(R78); INIT and the reserved OP take every FIELD (R170, R79). -/
def Instr.wellFormed (i : Instr) : Bool :=
  match i with
  | .getStreamId => true
  | .getSv => true
  | .getMr => true
  | .getFs => true
  | .getTv => true
  | .getTu => true
  | .getSeqNum => true
  | .getType => true
  | .getBaseFreq => true
  | .getCrfDataLen => true
  | .getTimestampInterval => true
  | .getPull => true
  | .getUnrecognised field => namesNoField field
  | .setStreamId => true
  | .setSv => true
  | .setMr => true
  | .setFs => true
  | .setTv => true
  | .setTu => true
  | .setSeqNum => true
  | .setType => true
  | .setBaseFreq => true
  | .setCrfDataLen => true
  | .setTimestampInterval => true
  | .setPull => true
  | .setUnrecognised field => namesNoField field
  | .init _ => true
  | .rsv _ => true

end Sys2Proof
end

