-- ==== Sys2Proof/Decode.lean ====
section
/-! DEFINITION. The decoder and the encoder of command words (spec/30_encoding.md R71 to R73, R78, R81). -/

namespace Sys2Proof

/-- Why bytes are not a command word. -/
inductive DecodeError where
  /-- There is no byte to read. -/
  | noBytes
  /-- The byte is above 0x3F: a command word has 6 bits (R71). -/
  | notACommandWord (b : Byte)
  deriving DecidableEq, Repr

/-- `cmd[5:4]` (R71). -/
def opBits (c : Cmd) : BitVec 2 := c.extractLsb' 4 2

/-- `cmd[3:0]` (R71). -/
def fieldBits (c : Cmd) : FieldCode := c.extractLsb' 0 4

/-- The GET rows of the opcode map (R78). -/
def decodeGet (field : FieldCode) : Instr :=
  match field.toNat with
  | 0 => .getStreamId
  | 1 => .getSv
  | 2 => .getMr
  | 3 => .getFs
  | 4 => .getTv
  | 5 => .getTu
  | 6 => .getSeqNum
  | 7 => .getType
  | 8 => .getBaseFreq
  | 9 => .getCrfDataLen
  | 10 => .getTimestampInterval
  | 11 => .getPull
  | _ => .getUnrecognised field

/-- The SET rows of the opcode map (R78). -/
def decodeSet (field : FieldCode) : Instr :=
  match field.toNat with
  | 0 => .setStreamId
  | 1 => .setSv
  | 2 => .setMr
  | 3 => .setFs
  | 4 => .setTv
  | 5 => .setTu
  | 6 => .setSeqNum
  | 7 => .setType
  | 8 => .setBaseFreq
  | 9 => .setCrfDataLen
  | 10 => .setTimestampInterval
  | 11 => .setPull
  | _ => .setUnrecognised field

/-- "The decoder reads OP, then, for GET and SET, FIELD" (R81). Every one of the 64 words has a meaning. -/
def decodeCmd (c : Cmd) : Instr :=
  match (opBits c).toNat with
  | 0 => decodeGet (fieldBits c)
  | 1 => decodeSet (fieldBits c)
  | 2 => .init (fieldBits c)
  | _ => .rsv (fieldBits c)

/-- The decoder on bytes: a command word is one byte whose bits 7 and 6 are 0 (notes/assumptions/12.md,
DESIGN CHOICE); any other byte is refused by name. -/
def decode (bytes : List Byte) : Except DecodeError (Instr × List Byte) :=
  match bytes with
  | [] => .error .noBytes
  | b :: rest =>
    if b.toNat < 64 then .ok (decodeCmd (b.setWidth 6), rest) else .error (.notACommandWord b)

/-- The value of the OP bits of an instruction: GET 0b00, SET 0b01, INIT 0b10, reserved 0b11 (R72). -/
def Instr.op (i : Instr) : BitVec 2 :=
  match i with
  | .getStreamId => 0b00
  | .getSv => 0b00
  | .getMr => 0b00
  | .getFs => 0b00
  | .getTv => 0b00
  | .getTu => 0b00
  | .getSeqNum => 0b00
  | .getType => 0b00
  | .getBaseFreq => 0b00
  | .getCrfDataLen => 0b00
  | .getTimestampInterval => 0b00
  | .getPull => 0b00
  | .getUnrecognised _ => 0b00
  | .setStreamId => 0b01
  | .setSv => 0b01
  | .setMr => 0b01
  | .setFs => 0b01
  | .setTv => 0b01
  | .setTu => 0b01
  | .setSeqNum => 0b01
  | .setType => 0b01
  | .setBaseFreq => 0b01
  | .setCrfDataLen => 0b01
  | .setTimestampInterval => 0b01
  | .setPull => 0b01
  | .setUnrecognised _ => 0b01
  | .init _ => 0b10
  | .rsv _ => 0b11

/-- The command word of an instruction, as the opcode map writes it (R78). -/
def encode (i : Instr) : Cmd :=
  match i with
  | .getStreamId => 0x00
  | .getSv => 0x01
  | .getMr => 0x02
  | .getFs => 0x03
  | .getTv => 0x04
  | .getTu => 0x05
  | .getSeqNum => 0x06
  | .getType => 0x07
  | .getBaseFreq => 0x08
  | .getCrfDataLen => 0x09
  | .getTimestampInterval => 0x0A
  | .getPull => 0x0B
  | .getUnrecognised field => (0b00 : BitVec 2) ++ field
  | .setStreamId => 0x10
  | .setSv => 0x11
  | .setMr => 0x12
  | .setFs => 0x13
  | .setTv => 0x14
  | .setTu => 0x15
  | .setSeqNum => 0x16
  | .setType => 0x17
  | .setBaseFreq => 0x18
  | .setCrfDataLen => 0x19
  | .setTimestampInterval => 0x1A
  | .setPull => 0x1B
  | .setUnrecognised field => (0b01 : BitVec 2) ++ field
  | .init field => (0b10 : BitVec 2) ++ field
  | .rsv field => (0b11 : BitVec 2) ++ field

/-- The bytes of an instruction: its command word in one byte, bits 7 and 6 zero (notes/assumptions/12.md). -/
def encodeBytes (i : Instr) : List Byte :=
  [(encode i).setWidth 8]

/-- The bytes of a word of `nbits` bits, the byte with bits 7..0 first, at least one byte. -/
def tableBytes (nbits w : Nat) : List Byte :=
  (List.range (max 1 ((nbits + 7) / 8))).map fun k => BitVec.ofNat 8 (w % 2 ^ nbits / 256 ^ k)

/-- What the decoder reads from an instruction whose bits are `w`, numbered as spec/opcode_table.json numbers
them. -/
def decodeTableWord (nbits w : Nat) : Option Instr :=
  match decode (tableBytes nbits w) with
  | .ok (i, _) => some i
  | .error _ => none

end Sys2Proof
end

