-- ==== Sys2Proof/Config.lean ====
section
/-! DEFINITION. The OPEN parameters of the block and its free values: constants with no body, so that no proof
can see what they are (spec/00_scope.md R5, spec/93_implementation_defined.md). -/

namespace Sys2Proof

/-- `PULL_X1`, the "×1" PULL constant as the value bus carries it. OPEN: no number is assumed (R5, I6;
notes/assumptions/10.md). -/
opaque Config.pullX1 : Value

/-- `SUBTYPE_CRF`, the 8-bit tag INIT gives the collaborator. OPEN: no number is assumed (R5, I7;
notes/assumptions/10.md). -/
opaque Config.subtypeCrf : Byte

/-- `LATENCY`, the cycles from request to response. OPEN: "No rule depends on it", and no definition of this
model uses it (R5, R209, I8; notes/assumptions/14.md). -/
opaque Config.latency : Nat

/-- FREE VALUE. What `rdata` carries where the spec leaves it unspecified, a fresh one for each draw
(R76, I1; notes/assumptions/5.md). -/
opaque Config.freeRdata : Nat → Value

/-- FREE VALUE. The collaborator's tag after a call that returned an error, a fresh one for each draw
(spec/95_test_vectors.md P4; notes/assumptions/7.md). -/
opaque Config.freeTag : Nat → Byte

end Sys2Proof
end

