-- ==== Sys2Proof/Machine/State.lean ====
section
/-! DEFINITION. The state of the machine as plain data, the reasons a step can stop, and the state after reset
(spec/10_state.md, spec/30_encoding.md R70 to R76, spec/70_reset_and_hazards.md R200 to R203). -/

namespace Sys2Proof.Machine

/-- The bytes of all header buffers, as (address, byte) pairs in the canonical form `Memory.wf`
(Machine/Ops.lean): addresses strictly rising, no entry equal to what an unlisted address reads as. The address
of byte `k` of header instance `b` is `headerAddr b k` (notes/assumptions/1.md). -/
abbrev Memory := List Host.Cell

/-- The two error kinds (spec/60_exceptions.md R180). -/
inductive ErrorKind where
  /-- Null or absent header or out-parameter; unrecognised field identifier. -/
  | invalidArgument
  /-- Value outside a field's representable range and the other cases of R182. -/
  | invalidValue
  deriving DecidableEq, Repr

/-- How a transaction, or the collaborator's one operation, ends (R180, R30). -/
inductive Status where
  /-- Success. -/
  | ok
  /-- One of the two error kinds. -/
  | error (kind : ErrorKind)
  deriving DecidableEq, Repr

/-- The signals of the request port (R70), with the header buffer the host names (R36, D26). -/
structure Request where
  /-- The command word. -/
  cmd : Cmd
  /-- The value of a SET. -/
  wdata : Value
  /-- 1 if a header buffer is supplied. -/
  hdrPresent : Bool
  /-- 1 if the requester will take a GET result. -/
  outPresent : Bool
  /-- Which header instance is `H` in this transaction. -/
  buf : Nat
  deriving DecidableEq, Repr

/-- Whether the host keeps its duties towards the header buffer in a transaction (R56, R192, D27, I5, I13). -/
inductive HostDuty where
  /-- No other transaction is in progress on the buffer, and the buffer stays in place. -/
  | kept
  /-- The host starts the transaction while another one on the same buffer is in progress. -/
  | overlapped
  /-- The host moves or frees the buffer during the transaction. -/
  | bufferMoved
  deriving DecidableEq, Repr

/-- One request as it comes from outside: the request signals, the collaborator's draw for it (what
`CollabSetSubtype` answers if this transaction calls it, R30, I4; notes/assumptions/6.md), and whether the host
keeps its duties (notes/assumptions/9.md). DESIGN CHOICE: no header bytes come with a request; the caller writes none
between two transactions (notes/assumptions/17.md). -/
structure Stimulus where
  request : Request
  collab : Status
  duty : HostDuty
  deriving DecidableEq, Repr

/-- The response ports of a completed transaction (R75, R76). -/
structure Response where
  /-- `status[1:0]`: 0b00 OK, 0b01 InvalidArgument, 0b10 InvalidValue. -/
  status : BitVec 2
  /-- `rdata[63:0]`: a value only after a GET with status OK, else a free value. -/
  rdata : Value
  deriving DecidableEq, Repr

/-- Everything the spec gives the machine that can change. -/
structure State where
  /-- The header buffers `H` of every instance (R20, R36). -/
  mem : Memory
  /-- The collaborator's subtype tag, its state `C` (R30). -/
  collabTag : Byte
  /-- What the collaborator answers if the transaction at the port calls it (R30, I4). -/
  collabAnswer : Status
  /-- The request port: the signals of the transaction the block performs (R70), or, between transactions, of the last
  one it performed (notes/assumptions/4.md). -/
  port : Request
  /-- The response ports; `none` is "not driven until the first request completes" (R203). They hold the last
  response until the next one (notes/assumptions/8.md); no transaction reads them (R33). -/
  response : Option Response
  /-- The requests the host has issued and the block has not begun, oldest first (R32, R60). -/
  pending : List Stimulus
  /-- THE MODEL'S OWN field: how many free values were drawn (notes/assumptions/5.md). -/
  draws : Nat
  deriving DecidableEq, Repr

/-- The reasons a step stops: a host that breaks a duty has "no move" (R56, R192). Both are safe: where the
spec gives no result, the machine stops. No instruction's meaning raises one; `nextRequest` does. -/
inductive Fault where
  /-- Raised by `nextRequest`: the request was started while another transaction on the same header buffer was
  in progress (R56, R207, I5). Safe. -/
  | overlappingTransaction
  /-- Raised by `nextRequest`: the host moved or freed the header buffer during the transaction (R192, I13).
  Safe. -/
  | headerMoved
  deriving DecidableEq, Repr

/-- The reasons the machine has no meaning for an instruction. -/
inductive Refusal where
  /-- Raised by an arm of `exec` that has no meaning yet. Safe. No arm of this model raises it. -/
  | notModelled (mnemonic : String)
  deriving DecidableEq, Repr

/-- The request port before any request: every signal 0 (notes/assumptions/4.md, DESIGN CHOICE). -/
def Request.idle : Request :=
  { cmd := 0, wdata := 0, hdrPresent := false, outPresent := false, buf := 0 }

/-- The machine after reset with the header bytes `m` and the collaborator's tag `tag` that the outside supplies:
the block itself has nothing to reset (R200), the header holds "whatever the caller supplies" (R201), the
collaborator is unspecified (R202), and the response ports are not driven (R203). -/
def State.resetWith (m : Memory) (tag : Byte) : State :=
  { mem := m
    collabTag := tag
    collabAnswer := .ok
    port := Request.idle
    response := none
    pending := []
    draws := 0 }

/-- The machine right after reset, with nothing listed in memory and the tag 0 (notes/assumptions/2.md and
7.md, DESIGN CHOICE). No request has been issued: "the block waits for a request" (R203). -/
def State.reset : State := State.resetWith [] 0

end Sys2Proof.Machine
end

