-- ==== Sys2Proof/Machine/Flags.lean ====
section
/-! DEFINITION. The condition a transaction reports. The block keeps no flags and no condition codes
(spec/10_state.md R33); its one condition is the response's status (spec/30_encoding.md R75). -/

namespace Sys2Proof.Machine

/-- `status[1:0]` of an error kind (R75, R180). -/
def ErrorKind.bits (e : ErrorKind) : BitVec 2 :=
  match e with
  | .invalidArgument => 0b01
  | .invalidValue => 0b10

/-- `status[1:0]`: 0b00 OK, 0b01 InvalidArgument, 0b10 InvalidValue; 0b11 is never driven (R75). -/
def Status.bits (st : Status) : BitVec 2 :=
  match st with
  | .ok => 0b00
  | .error e => e.bits

end Sys2Proof.Machine
end

