-- ==== Sys2Proof/Machine/Ops.lean ====
section
/-! DEFINITION. The named operations over the header bytes, the response, the collaborator and the request
port; among them `raise`, how every error is taken (spec/60_exceptions.md R180, R185). -/

namespace Sys2Proof.Machine

/-! ## Bytes -/

/-- What an address that memory does not list reads as (notes/assumptions/2.md, DESIGN CHOICE: the spec lets a
header hold any bytes at reset, R201). -/
def unlistedByte : Byte := 0

/-- The byte at an address. -/
def readByte (m : Memory) (a : Nat) : Byte :=
  match m with
  | [] => unlistedByte
  | (b, v) :: rest => if a = b then v else readByte rest a

/-- `m` without the entries for `a`. -/
def eraseCell (m : Memory) (a : Nat) : Memory :=
  match m with
  | [] => []
  | (b, v) :: rest => if a = b then eraseCell rest a else (b, v) :: eraseCell rest a

/-- `m` with the entry `(a, v)` in its place. -/
def insertCell (m : Memory) (a : Nat) (v : Byte) : Memory :=
  match m with
  | [] => [(a, v)]
  | (b, u) :: rest => if a < b then (a, v) :: (b, u) :: rest else (b, u) :: insertCell rest a v

/-- Write one byte, keeping the canonical form: writing what an unlisted address reads as removes the entry. -/
def writeByte (m : Memory) (a : Nat) (v : Byte) : Memory :=
  if v = unlistedByte then eraseCell m a else insertCell (eraseCell m a) a v

/-- The canonical form of a memory whose addresses are at least `lo`. -/
def Memory.wfFrom (lo : Nat) (m : List Host.Cell) : Bool :=
  match m with
  | [] => true
  | (a, v) :: rest => decide (lo ≤ a) && decide (v ≠ unlistedByte) && Memory.wfFrom (a + 1) rest

/-- The canonical form: addresses strictly rising, no entry equal to what an unlisted address reads as. -/
def Memory.wf (m : List Host.Cell) : Bool := Memory.wfFrom 0 m

/-! ## Header words -/

/-- `HDR_BYTES` (spec/00_scope.md R5). -/
def hdrBytes : Nat := 20

/-- Where byte `k` of header instance `b` stands in `Memory` (notes/assumptions/1.md). For the offsets 0 to 19
that exist (spec/20_memory.md R58), different instances never share an address. -/
def headerAddr (b k : Nat) : Nat := b * hdrBytes + k

/-- `H[k]` of header instance `b` (spec/10_state.md R20). -/
def headerByte (m : Memory) (b k : Nat) : Byte := readByte m (headerAddr b k)

/-- `MemRead`: the value of `n` bytes, the byte at the lowest address most significant
(spec/40_bit_accessor.md R101). -/
def memRead (m : Memory) (a : Nat) (n : Nat) : BitVec (8 * n) :=
  match n with
  | 0 => 0#0
  | k + 1 => (readByte m a ++ memRead m (a + 1) k).cast (by omega)

/-- `MemWrite`: the `n` bytes of `w`, most significant byte first (R101). -/
def memWrite (m : Memory) (a : Nat) (n : Nat) (w : BitVec (8 * n)) : Memory :=
  match n with
  | 0 => m
  | k + 1 => memWrite (writeByte m a (w.extractLsb' (8 * k) 8)) (a + 1) k (w.setWidth (8 * k))

/-- `for i in 0 .. n-1: H[i] <- 0` of INIT, for the `n` bytes from address `a` (spec/44_init.md R170). -/
def zeroBytes (m : Memory) (a : Nat) (n : Nat) : Memory :=
  match n with
  | 0 => m
  | k + 1 => zeroBytes (writeByte m a 0) (a + 1) k

/-! ## The response -/

/-- Complete the transaction: drive the response ports. -/
def State.respond (s : State) (st : Status) (rdata : Value) : State :=
  { s with response := some { status := st.bits, rdata := rdata } }

/-- A fresh value for an `rdata` the spec leaves unspecified (spec/30_encoding.md R76). -/
def State.drawRdata (s : State) : Value × State :=
  (Config.freeRdata s.draws, { s with draws := s.draws + 1 })

/-- Complete a GET with status OK: `rdata` holds the decoded value (R76). -/
def State.respondValue (s : State) (v : Value) : State :=
  s.respond .ok v

/-- Complete a SET or an INIT with status OK: `rdata` is unspecified (R76). -/
def State.respondOk (s : State) : State :=
  s.drawRdata.2.respond .ok s.drawRdata.1

/-- RAISE, how every error is taken: the transaction ends with the kind's status and an unspecified `rdata`.
Nothing is saved, no mode changes, nothing is jumped to, and no write made before the raise is undone
(spec/00_scope.md R8, spec/60_exceptions.md R180, R185). There is no return from it: the next request is
decoded as normal (R187). -/
def State.raise (s : State) (e : ErrorKind) : State :=
  s.drawRdata.2.respond (.error e) s.drawRdata.1

/-! ## The collaborator -/

/-- `CollabSetSubtype(t)`: it sets its tag to `t` and answers OK, or answers an error kind; which one is a draw
(spec/10_state.md R30). After an error its tag is not specified (spec/95_test_vectors.md P4): a free value.
It changes no byte of `H`. -/
def State.collabSetSubtype (s : State) (t : Byte) : Status × State :=
  match s.collabAnswer with
  | .ok => (.ok, { s with collabTag := t })
  | .error e => (.error e, { s with collabTag := Config.freeTag s.draws, draws := s.draws + 1 })

/-! ## The request port -/

/-- Put the next request on the port, with the collaborator's draw for it. DESIGN CHOICE: its signals stay on the port
after the transaction, until the next request (notes/assumptions/4.md). -/
def State.accept (s : State) (x : Stimulus) (rest : List Stimulus) : State :=
  { s with port := x.request, collabAnswer := x.collab, pending := rest }

/-- The duty the host breaks with this request, if any. DESIGN CHOICE (notes/assumptions/9.md): a request without a
header buffer is a transaction on no buffer, so it breaks none; with a header buffer every request is a transaction on
it, the reserved OP, GET PULL and SET PULL too, which touch no byte of it. -/
def Stimulus.brokenDuty (x : Stimulus) : Option Fault :=
  if x.request.hdrPresent then
    match x.duty with
    | .kept => none
    | .overlapped => some .overlappingTransaction
    | .bufferMoved => some .headerMoved
  else none

/-- What the block does next. -/
inductive Next where
  /-- No request is there: the block waits (spec/70_reset_and_hazards.md R203). -/
  | wait
  /-- The host broke a duty: no move (spec/20_memory.md R56, spec/60_exceptions.md R192). -/
  | stuck (f : Fault)
  /-- A transaction begins: the decoded command word and the state with the request on the port. -/
  | run (i : Instr) (s : State)
  deriving DecidableEq, Repr

/-- Take the oldest request from the host. Nothing is fetched from memory (spec/20_memory.md R64). -/
def State.nextRequest (s : State) : Next :=
  match s.pending with
  | [] => .wait
  | x :: rest =>
    match x.brokenDuty with
    | some f => .stuck f
    | none => .run (decodeCmd x.request.cmd) (s.accept x rest)

end Sys2Proof.Machine
end

