-- ==== Sys2Proof/Machine/Operands.lean ====
section
/-! DEFINITION. The bit accessor and the field descriptor table: the container words, Extract and Insert, the
field codes, the range check (spec/10_state.md R20 to R27, spec/40_bit_accessor.md R100 to R107). -/

namespace Sys2Proof.Machine

/-! ## Container words -/

/-- A word selector (R100). -/
inductive WordSel where
  /-- The stream_id word. -/
  | sid
  /-- Word A: the flags and SEQ_NUM. -/
  | a
  /-- Word B: TYPE, BASE_FREQ, CRF_DATA_LEN and TIMESTAMP_INTERVAL. -/
  | b
  deriving DecidableEq, Repr

/-- `off(sel)`: `OFF_SID` = 0, `OFF_A` = 8, `OFF_B` = 12 (R100). -/
def WordSel.off (sel : WordSel) : Nat :=
  match sel with
  | .sid => 0
  | .a => 8
  | .b => 12

/-- `size(sel)` in bytes (R100). -/
def WordSel.size (sel : WordSel) : Nat :=
  match sel with
  | .sid => 8
  | .a => 4
  | .b => 8

/-- `WordRead(sel)` of header instance `b` (R100). -/
def wordRead (m : Memory) (b : Nat) (sel : WordSel) : BitVec (8 * sel.size) :=
  memRead m (headerAddr b sel.off) sel.size

/-- `WordWrite(sel, w)` of header instance `b` (R100). -/
def wordWrite (m : Memory) (b : Nat) (sel : WordSel) (w : BitVec (8 * sel.size)) : Memory :=
  memWrite m (headerAddr b sel.off) sel.size w

/-! ## Extract and Insert -/

/-- `Extract(w, mask, shift)` (R102). -/
def extractBits {n : Nat} (w mask : BitVec n) (shift : Nat) : BitVec n :=
  (w &&& mask) >>> shift

/-- `Insert(w, v, mask, shift)` (R103). -/
def insertBits {n : Nat} (w v mask : BitVec n) (shift : Nat) : BitVec n :=
  (w &&& ~~~mask) ||| ((v <<< shift) &&& mask)

/-- `ones(k)` at width `n`: (2^k) - 1 (spec/00_scope.md R7). -/
def ones (n k : Nat) : BitVec n := BitVec.ofNat n (2 ^ k - 1)

/-- The LSB-0 index of MSB-0 position `p` in an `n`-bit word (spec/00_scope.md R6). -/
def lsb0OfMsb0 (n p : Nat) : Nat := n - 1 - p

/-! ## The field descriptor table -/

/-- The stored fields, codes 0 to 10 (R24, R105). -/
inductive Field where
  | streamId
  | sv
  | mr
  | fs
  | tv
  | tu
  | seqNum
  | type
  | baseFreq
  | crfDataLen
  | timestampInterval
  deriving DecidableEq, Repr

/-- The "word" column of R24. -/
def Field.sel (f : Field) : WordSel :=
  match f with
  | .streamId => .sid
  | .sv => .a
  | .mr => .a
  | .fs => .a
  | .tv => .a
  | .tu => .a
  | .seqNum => .a
  | .type => .b
  | .baseFreq => .b
  | .crfDataLen => .b
  | .timestampInterval => .b

/-- The "width" column of R24. -/
def Field.width (f : Field) : Nat :=
  match f with
  | .streamId => 64
  | .sv => 1
  | .mr => 1
  | .fs => 1
  | .tv => 1
  | .tu => 1
  | .seqNum => 8
  | .type => 16
  | .baseFreq => 8
  | .crfDataLen => 16
  | .timestampInterval => 16

/-- `CRF_DATA_LEN_SHIFT` (spec/00_scope.md R5, spec/90_conflicts.md C3; notes/assumptions/11.md). -/
def crfDataLenShift : Nat := 48

/-- The "shift" column of R24. -/
def Field.shift (f : Field) : Nat :=
  match f with
  | .streamId => 0
  | .sv => 23
  | .mr => 19
  | .fs => 17
  | .tv => 16
  | .tu => 0
  | .seqNum => 8
  | .type => 32
  | .baseFreq => 24
  | .crfDataLen => crfDataLenShift
  | .timestampInterval => 0

/-- The "mask" column of R24, at the width of the field's container word. -/
def Field.mask (f : Field) : BitVec (8 * f.sel.size) :=
  match f with
  | .streamId => (0xFFFFFFFFFFFFFFFF : BitVec 64)
  | .sv => (0x00800000 : BitVec 32)
  | .mr => (0x00080000 : BitVec 32)
  | .fs => (0x00020000 : BitVec 32)
  | .tv => (0x00010000 : BitVec 32)
  | .tu => (0x00000001 : BitVec 32)
  | .seqNum => (0x0000FF00 : BitVec 32)
  | .type => (0x0000FFFF00000000 : BitVec 64)
  | .baseFreq => (0x00000000FF000000 : BitVec 64)
  | .crfDataLen => (0xFFFF000000000000 : BitVec 64)
  | .timestampInterval => (0x000000000000FFFF : BitVec 64)

/-- The "translator" column of R24: only BASE_FREQ goes through the frequency translator. -/
def Field.isTranslated (f : Field) : Bool :=
  match f with
  | .streamId => false
  | .sv => false
  | .mr => false
  | .fs => false
  | .tv => false
  | .tu => false
  | .seqNum => false
  | .type => false
  | .baseFreq => true
  | .crfDataLen => false
  | .timestampInterval => false

/-- What a field code names (R105). -/
inductive Desc where
  /-- A stored field, codes 0 to 10. -/
  | stored (f : Field)
  /-- PULL, code 11: no storage (R27). -/
  | virtual
  /-- Codes 12 to 15 name no field. -/
  | unknown
  deriving DecidableEq, Repr

/-- `Desc(code)`: total and closed, "never silently ignored" (R105). -/
def desc (code : FieldCode) : Desc :=
  match code.toNat with
  | 0 => .stored .streamId
  | 1 => .stored .sv
  | 2 => .stored .mr
  | 3 => .stored .fs
  | 4 => .stored .tv
  | 5 => .stored .tu
  | 6 => .stored .seqNum
  | 7 => .stored .type
  | 8 => .stored .baseFreq
  | 9 => .stored .crfDataLen
  | 10 => .stored .timestampInterval
  | 11 => .virtual
  | _ => .unknown

/-- `HasGet(code)`: false for code 4 (TV) and for codes 12 to 15 (R105). -/
def hasGet (code : FieldCode) : Bool :=
  match code.toNat with
  | 4 => false
  | 12 => false
  | 13 => false
  | 14 => false
  | 15 => false
  | _ => true

/-! ## Field access -/

/-- `FieldGet(f)` of header instance `b`, zero-extended to the value bus (R106, R76). -/
def fieldGet (m : Memory) (b : Nat) (f : Field) : Value :=
  (extractBits (wordRead m b f.sel) f.mask f.shift).setWidth 64

/-- `FieldPut(f, v)` of header instance `b` (R106). -/
def fieldPut (m : Memory) (b : Nat) (f : Field) (v : Value) : Memory :=
  wordWrite m b f.sel (insertBits (wordRead m b f.sel) (v.setWidth (8 * f.sel.size)) f.mask f.shift)

/-- `Fits(f, v)`: `v < 2^width(f)`, all 64 bits of `v` counted (R107, R74). -/
def fits (f : Field) (v : Value) : Bool :=
  decide (v.toNat < 2 ^ f.width)

end Sys2Proof.Machine
end

