-- ==== Sys2Proof/Machine/Translator.lean ====
section
/-! DEFINITION. The base-frequency translator: the ROM `FREQ` and its two directions (spec/10_state.md R28, R29,
spec/41_freq_translator.md R120, R121). -/

namespace Sys2Proof.Machine

/-- The translator ROM: entry `i` is the rate in Hz of wire code `i` (R28). It is a constant: no operation
writes it (R29). -/
def freqRom : List Nat :=
  [0, 8000, 11025, 16000, 22050, 32000, 44100, 48000, 64000, 88200, 96000]

/-- `FREQ_ENTRIES` (spec/00_scope.md R5). -/
def freqEntries : Nat := 11

/-- `FreqDecode(c)`: InvalidValue for a code of 11 or more, else the entry, zero-extended (R120). -/
def freqDecode (c : Byte) : Except ErrorKind Value :=
  if freqEntries ≤ c.toNat then .error .invalidValue
  else .ok (BitVec.ofNat 64 (freqRom.getD c.toNat 0))

/-- The search of `FreqEncode` in table order, from wire code `i` on. The comparison is on all 64 bits (R121). -/
def freqSearch (r : Value) (entries : List Nat) (i : Nat) : Except ErrorKind Byte :=
  match entries with
  | [] => .error .invalidValue
  | hz :: rest => if BitVec.ofNat 64 hz = r then .ok (BitVec.ofNat 8 i) else freqSearch r rest (i + 1)

/-- `FreqEncode(r)`: the wire code of the entry equal to `r`, else InvalidValue (R121). -/
def freqEncode (r : Value) : Except ErrorKind Byte :=
  freqSearch r freqRom 0

end Sys2Proof.Machine
end

