-- ==== Sys2Proof/Machine/Get.lean ====
section
/-! DEFINITION. The GET family (spec/42_get.md R130 to R143). GET never writes `H`. -/

namespace Sys2Proof.Machine

/-- The decoded value of a stored field: BASE_FREQ goes through the translator (R130). -/
def storedValue (m : Memory) (b : Nat) (f : Field) : Except ErrorKind Value :=
  if f.isTranslated then freqDecode ((fieldGet m b f).setWidth 8) else .ok (fieldGet m b f)

/-- What `GET(code)` answers: the presence checks, the field code, then the value (R130, R184). -/
def getResult (code : FieldCode) (s : State) : Except ErrorKind Value :=
  if !s.port.hdrPresent || !s.port.outPresent then .error .invalidArgument
  else if !hasGet code then .error .invalidArgument
  else
    match desc code with
    | .unknown => .error .invalidArgument
    | .virtual => .ok Config.pullX1
    | .stored f => storedValue s.mem s.port.buf f

/-- The whole transaction `GET(code)` (R130). -/
def getField (code : FieldCode) (s : State) : State :=
  match getResult code s with
  | .ok v => s.respondValue v
  | .error e => s.raise e

/-- GET STREAM_ID (R131). -/
def execGetStreamId (s : State) : Host.Outcome State Fault Refusal := .next (getField 0 s)

/-- GET SV (R132). -/
def execGetSv (s : State) : Host.Outcome State Fault Refusal := .next (getField 1 s)

/-- GET MR (R133). -/
def execGetMr (s : State) : Host.Outcome State Fault Refusal := .next (getField 2 s)

/-- GET FS (R134). -/
def execGetFs (s : State) : Host.Outcome State Fault Refusal := .next (getField 3 s)

/-- GET TV: an illegal encoding, InvalidArgument on every path (R135, D7). -/
def execGetTv (s : State) : Host.Outcome State Fault Refusal := .next (getField 4 s)

/-- GET TU (R136). -/
def execGetTu (s : State) : Host.Outcome State Fault Refusal := .next (getField 5 s)

/-- GET SEQ_NUM (R137). -/
def execGetSeqNum (s : State) : Host.Outcome State Fault Refusal := .next (getField 6 s)

/-- GET TYPE (R138). -/
def execGetType (s : State) : Host.Outcome State Fault Refusal := .next (getField 7 s)

/-- GET BASE_FREQ: a rate in Hz, or InvalidValue for a code of 11 or more (R139). -/
def execGetBaseFreq (s : State) : Host.Outcome State Fault Refusal := .next (getField 8 s)

/-- GET CRF_DATA_LEN (R140). -/
def execGetCrfDataLen (s : State) : Host.Outcome State Fault Refusal := .next (getField 9 s)

/-- GET TIMESTAMP_INTERVAL (R141). -/
def execGetTimestampInterval (s : State) : Host.Outcome State Fault Refusal := .next (getField 10 s)

/-- GET PULL: the constant `PULL_X1`; no byte of `H` is read (R142). -/
def execGetPull (s : State) : Host.Outcome State Fault Refusal := .next (getField 11 s)

/-- GET of an unrecognised field: `raise InvalidArgument()` (R143). -/
def execGetUnrecognised (_field : FieldCode) (s : State) : Host.Outcome State Fault Refusal :=
  .next (s.raise .invalidArgument)

end Sys2Proof.Machine
end

