-- ==== Sys2Proof/Machine/Set.lean ====
section
/-! DEFINITION. The SET family (spec/43_set.md R150 to R163). Every check comes before the one write. -/

namespace Sys2Proof.Machine

/-- The header bytes after `v` goes into a stored field: BASE_FREQ is encoded from Hz, every other field is range
checked (R150). -/
def storeValue (m : Memory) (b : Nat) (f : Field) (v : Value) : Except ErrorKind Memory :=
  if f.isTranslated then
    match freqEncode v with
    | .error e => .error e
    | .ok c => .ok (fieldPut m b f (c.setWidth 64))
  else if fits f v then .ok (fieldPut m b f v)
  else .error .invalidValue

/-- What `SET(code, v)` does to the header bytes: the presence check, the field code, the value check, then the
one write (R150, R184). -/
def setResult (code : FieldCode) (v : Value) (s : State) : Except ErrorKind Memory :=
  if !s.port.hdrPresent then .error .invalidArgument
  else
    match desc code with
    | .unknown => .error .invalidArgument
    | .virtual => if v = Config.pullX1 then .ok s.mem else .error .invalidValue
    | .stored f => storeValue s.mem s.port.buf f v

/-- The whole transaction `SET(code, wdata)` (R150). -/
def setField (code : FieldCode) (s : State) : State :=
  match setResult code s.port.wdata s with
  | .ok m => State.respondOk { s with mem := m }
  | .error e => s.raise e

/-- SET STREAM_ID (R151). -/
def execSetStreamId (s : State) : Host.Outcome State Fault Refusal := .next (setField 0 s)

/-- SET SV (R152). -/
def execSetSv (s : State) : Host.Outcome State Fault Refusal := .next (setField 1 s)

/-- SET MR (R153). -/
def execSetMr (s : State) : Host.Outcome State Fault Refusal := .next (setField 2 s)

/-- SET FS (R154). -/
def execSetFs (s : State) : Host.Outcome State Fault Refusal := .next (setField 3 s)

/-- SET TV (R155). -/
def execSetTv (s : State) : Host.Outcome State Fault Refusal := .next (setField 4 s)

/-- SET TU (R156). -/
def execSetTu (s : State) : Host.Outcome State Fault Refusal := .next (setField 5 s)

/-- SET SEQ_NUM: no wrap, a value of 256 or more raises InvalidValue (R157, C5). -/
def execSetSeqNum (s : State) : Host.Outcome State Fault Refusal := .next (setField 6 s)

/-- SET TYPE (R158). -/
def execSetType (s : State) : Host.Outcome State Fault Refusal := .next (setField 7 s)

/-- SET BASE_FREQ: `wdata` is a rate in Hz (R159). -/
def execSetBaseFreq (s : State) : Host.Outcome State Fault Refusal := .next (setField 8 s)

/-- SET CRF_DATA_LEN (R160). -/
def execSetCrfDataLen (s : State) : Host.Outcome State Fault Refusal := .next (setField 9 s)

/-- SET TIMESTAMP_INTERVAL (R161). -/
def execSetTimestampInterval (s : State) : Host.Outcome State Fault Refusal := .next (setField 10 s)

/-- SET PULL: a check against `PULL_X1`; no byte of `H` is written (R162, D9). -/
def execSetPull (s : State) : Host.Outcome State Fault Refusal := .next (setField 11 s)

/-- SET of an unrecognised field: `raise InvalidArgument()` (R163). -/
def execSetUnrecognised (_field : FieldCode) (s : State) : Host.Outcome State Fault Refusal :=
  .next (s.raise .invalidArgument)

end Sys2Proof.Machine
end

