-- ==== Sys2Proof/Machine/Init.lean ====
section
/-! DEFINITION. INIT and the reserved OP (spec/44_init.md R170 to R174, spec/30_encoding.md R79). -/

namespace Sys2Proof.Machine

/-- The two writes `SET(SV, 1)` and `SET(TV, 1)` at the end of INIT; the first error is returned (R170). -/
def initFlags (s : State) : State :=
  match setResult 1 1 s with
  | .error e => s.raise e
  | .ok m =>
    match setResult 4 1 { s with mem := m } with
    | .error e => State.raise { s with mem := m } e
    | .ok m' => State.respondOk { s with mem := m' }

/-- The collaborator call of INIT and what follows it: an error kind is passed on, with `H` left as it is
(R170, R173, R186). -/
def initTag (s : State) : State :=
  match s.collabSetSubtype Config.subtypeCrf with
  | (.ok, s') => initFlags s'
  | (.error e, s') => s'.raise e

/-- The whole transaction `INIT()`: the presence check, the zeroing, the collaborator, SV and TV (R170, R66). -/
def initHeader (s : State) : State :=
  if s.port.hdrPresent then
    initTag { s with mem := zeroBytes s.mem (headerAddr s.port.buf 0) hdrBytes }
  else s.raise .invalidArgument

/-- INIT: FIELD, `wdata` and `out_present` are not read (R170, R174). -/
def execInit (_field : FieldCode) (s : State) : Host.Outcome State Fault Refusal := .next (initHeader s)

/-- The reserved OP: `raise InvalidArgument()`, every input ignored (R79). -/
def execRsv (_field : FieldCode) (s : State) : Host.Outcome State Fault Refusal :=
  .next (s.raise .invalidArgument)

end Sys2Proof.Machine
end

