-- ==== Sys2Proof/Machine/Dispatch.lean ====
section
/-! DEFINITION. Which meaning each instruction has. -/

namespace Sys2Proof.Machine

/-- One arm per row of spec/opcode_table.json. -/
def exec (i : Instr) (s : State) : Host.Outcome State Fault Refusal :=
  match i with
  | .getStreamId => Sys2Proof.Machine.execGetStreamId s
  | .getSv => Sys2Proof.Machine.execGetSv s
  | .getMr => Sys2Proof.Machine.execGetMr s
  | .getFs => Sys2Proof.Machine.execGetFs s
  | .getTv => Sys2Proof.Machine.execGetTv s
  | .getTu => Sys2Proof.Machine.execGetTu s
  | .getSeqNum => Sys2Proof.Machine.execGetSeqNum s
  | .getType => Sys2Proof.Machine.execGetType s
  | .getBaseFreq => Sys2Proof.Machine.execGetBaseFreq s
  | .getCrfDataLen => Sys2Proof.Machine.execGetCrfDataLen s
  | .getTimestampInterval => Sys2Proof.Machine.execGetTimestampInterval s
  | .getPull => Sys2Proof.Machine.execGetPull s
  | .getUnrecognised field => Sys2Proof.Machine.execGetUnrecognised field s
  | .setStreamId => Sys2Proof.Machine.execSetStreamId s
  | .setSv => Sys2Proof.Machine.execSetSv s
  | .setMr => Sys2Proof.Machine.execSetMr s
  | .setFs => Sys2Proof.Machine.execSetFs s
  | .setTv => Sys2Proof.Machine.execSetTv s
  | .setTu => Sys2Proof.Machine.execSetTu s
  | .setSeqNum => Sys2Proof.Machine.execSetSeqNum s
  | .setType => Sys2Proof.Machine.execSetType s
  | .setBaseFreq => Sys2Proof.Machine.execSetBaseFreq s
  | .setCrfDataLen => Sys2Proof.Machine.execSetCrfDataLen s
  | .setTimestampInterval => Sys2Proof.Machine.execSetTimestampInterval s
  | .setPull => Sys2Proof.Machine.execSetPull s
  | .setUnrecognised field => Sys2Proof.Machine.execSetUnrecognised field s
  | .init field => Sys2Proof.Machine.execInit field s
  | .rsv field => Sys2Proof.Machine.execRsv field s

end Sys2Proof.Machine
end

