-- ==== Sys2Proof/Machine/Step.lean ====
section
/-! DEFINITION. One step: the block waits, or performs one whole transaction (spec/00_scope.md R9,
spec/60_exceptions.md R192). -/

namespace Sys2Proof.Machine

/-- One step. Without a request the block waits and nothing changes (spec/70_reset_and_hazards.md R203). DESIGN CHOICE:
header bytes change only by a transaction, never by the caller's own hand between two (notes/assumptions/17.md). -/
def step (s : State) : Host.Outcome State Fault Refusal :=
  match s.nextRequest with
  | .wait => .next s
  | .stuck f => .fault f
  | .run i s' => exec i s'

/-- `s` with the command word `w` as the next request: on the oldest pending request, or on a new request
(header and result taker present, `wdata` 0, header instance 0) where none is pending; the host keeps its duties, so
that the very next step runs it (notes/assumptions/3.md).
The port carries the 6 bits of a command word. -/
def State.withFetchWord (s : State) (nbits w : Nat) : State :=
  let cmd : Cmd := BitVec.ofNat 6 (w % 2 ^ nbits)
  match s.pending with
  | [] =>
    { s with
      pending :=
        [{ request := { cmd := cmd, wdata := 0, hdrPresent := true, outPresent := true, buf := 0 }
           collab := .ok
           duty := .kept }] }
  | x :: rest =>
    { s with pending := { x with request := { x.request with cmd := cmd }, duty := .kept } :: rest }

end Sys2Proof.Machine
end

