-- ==== Sys2Proof/Machine/Assembler.lean ====
section
/-! DEFINITION. The assembly notation, one request per line (spec/30_encoding.md R82): its terms, the request a
term stands for, and the reading of a line of text. -/

namespace Sys2Proof.Machine

/-- The request a line names (R82). -/
inductive AsmOp where
  /-- `GET <field>`. -/
  | get (field : FieldCode)
  /-- `SET <field>, <value>`. -/
  | set (field : FieldCode) (value : Value)
  /-- `INIT`. -/
  | init
  /-- `RSV <n>`, the reserved OP with FIELD n. -/
  | rsv (field : FieldCode)
  deriving DecidableEq, Repr

/-- A line: the operation and its suffixes `!nohdr` and `!noout` (R82). -/
structure AsmLine where
  op : AsmOp
  noHdr : Bool
  noOut : Bool
  deriving DecidableEq, Repr

/-- The command word of an operation; `INIT` is the canonical form 0x20 (R78, R82). -/
def AsmOp.cmd (op : AsmOp) : Cmd :=
  match op with
  | .get field => (0b00 : BitVec 2) ++ field
  | .set field _ => (0b01 : BitVec 2) ++ field
  | .init => (0b10 : BitVec 2) ++ (0 : FieldCode)
  | .rsv field => (0b11 : BitVec 2) ++ field

/-- The value of a SET line becomes `wdata` (R82). DESIGN CHOICE: a line without a value (GET, INIT, RSV) puts 0 there;
the spec does not say what `wdata` carries then, and no such request reads it (R74, R79; notes/assumptions/13.md). -/
def AsmOp.wdata (op : AsmOp) : Value :=
  match op with
  | .get _ => 0
  | .set _ value => value
  | .init => 0
  | .rsv _ => 0

/-- The request of a line on header instance `b`: "no suffix means both inputs are 1" (R82). -/
def AsmLine.request (line : AsmLine) (b : Nat) : Request :=
  { cmd := line.op.cmd
    wdata := line.op.wdata
    hdrPresent := !line.noHdr
    outPresent := !line.noOut
    buf := b }

/-! ## Reading a line of text -/

/-- The field names of R73 with their codes. -/
def fieldNames : List (List Char × FieldCode) :=
  [("STREAM_ID".toList, 0), ("SV".toList, 1), ("MR".toList, 2), ("FS".toList, 3), ("TV".toList, 4),
   ("TU".toList, 5), ("SEQ_NUM".toList, 6), ("TYPE".toList, 7), ("BASE_FREQ".toList, 8),
   ("CRF_DATA_LEN".toList, 9), ("TIMESTAMP_INTERVAL".toList, 10), ("PULL".toList, 11)]

/-- The words of a line: blanks separate, a comma is a word of its own (notes/assumptions/13.md). -/
def asmWords (word : List Char) (line : List Char) : List (List Char) :=
  match line with
  | [] => if word = [] then [] else [word]
  | c :: rest =>
    if c = ' ' then (if word = [] then [] else [word]) ++ asmWords [] rest
    else if c = ',' then (if word = [] then [] else [word]) ++ [','] :: asmWords [] rest
    else asmWords (word ++ [c]) rest

/-- The value of a digit in base 10 or 16. -/
def digitValue (base : Nat) (c : Char) : Option Nat :=
  let n := c.toNat
  let v := if 48 ≤ n ∧ n ≤ 57 then some (n - 48)
    else if 65 ≤ n ∧ n ≤ 70 then some (n - 55)
    else if 97 ≤ n ∧ n ≤ 102 then some (n - 87)
    else none
  match v with
  | some d => if d < base then some d else none
  | none => none

/-- The number the digits write, after the digits whose number is `acc`. -/
def digitsValue (base : Nat) (acc : Nat) (cs : List Char) : Option Nat :=
  match cs with
  | [] => some acc
  | c :: rest =>
    match digitValue base c with
    | some d => digitsValue base (acc * base + d) rest
    | none => none

/-- "an unsigned decimal or `0x` hex number" (R82). -/
def asmNumber (cs : List Char) : Option Nat :=
  match cs with
  | [] => none
  | '0' :: 'x' :: [] => none
  | '0' :: 'x' :: digits => digitsValue 16 0 digits
  | digits => digitsValue 10 0 digits

/-- A `<value>`: a number below 2^64 (R82). -/
def asmValue (cs : List Char) : Option Value :=
  match asmNumber cs with
  | some n => if n < 2 ^ 64 then some (BitVec.ofNat 64 n) else none
  | none => none

/-- The n of `F<n>` and of `RSV <n>`, a FIELD code from 0 to 15. DESIGN CHOICE: it is read as a `<value>` is, in
decimal or in `0x` hex; the spec names hex for `<value>` only (notes/assumptions/13.md). -/
def asmFieldNumber (cs : List Char) : Option FieldCode :=
  match asmNumber cs with
  | some n => if n < 16 then some (BitVec.ofNat 4 n) else none
  | none => none

/-- A `<field>`: "a field name of rule R73, or `F<n>` for a FIELD code n from 0 to 15" (R82). -/
def asmField (cs : List Char) : Option FieldCode :=
  match fieldNames.lookup cs with
  | some code => some code
  | none =>
    match cs with
    | 'F' :: digits => asmFieldNumber digits
    | _ => none

/-- The suffixes of a GET as (`!nohdr`, `!noout`); both may stand, in either order (notes/assumptions/13.md). -/
def asmGetSuffix (ws : List (List Char)) : Option (Bool × Bool) :=
  if ws = [] then some (false, false)
  else if ws = ["!nohdr".toList] then some (true, false)
  else if ws = ["!noout".toList] then some (false, true)
  else if ws = ["!nohdr".toList, "!noout".toList] then some (true, true)
  else if ws = ["!noout".toList, "!nohdr".toList] then some (true, true)
  else none

/-- The suffix of any other request: `!nohdr` or none (R82). -/
def asmSuffix (ws : List (List Char)) : Option Bool :=
  if ws = [] then some false
  else if ws = ["!nohdr".toList] then some true
  else none

/-- A line from its words. -/
def asmLineOfWords (ws : List (List Char)) : Option AsmLine :=
  match ws with
  | [] => none
  | op :: rest =>
    if op = "GET".toList then
      match rest with
      | field :: suffix => do
        let f ← asmField field
        let x ← asmGetSuffix suffix
        some { op := .get f, noHdr := x.1, noOut := x.2 }
      | [] => none
    else if op = "SET".toList then
      match rest with
      | field :: [','] :: value :: suffix => do
        let f ← asmField field
        let v ← asmValue value
        let x ← asmSuffix suffix
        some { op := .set f v, noHdr := x, noOut := false }
      | _ => none
    else if op = "INIT".toList then do
      let x ← asmSuffix rest
      some { op := .init, noHdr := x, noOut := false }
    else if op = "RSV".toList then
      match rest with
      | n :: suffix => do
        let f ← asmFieldNumber n
        let x ← asmSuffix suffix
        some { op := .rsv f, noHdr := x, noOut := false }
      | [] => none
    else none

/-- The line a text writes, if it is one. -/
def assemble (text : String) : Option AsmLine :=
  asmLineOfWords (asmWords [] text.toList)

end Sys2Proof.Machine
end

