-- ==== Sys2Proof/Safety.lean ====
section
/-! DEFINITION. The terms claims use: the bytes and words of the header a request names, how a transaction may end,
the error checks of the spec's priority list, and the invariant of the machine. -/

namespace Sys2Proof.Machine

/-! ## The header of the request on the port -/

/-- `H[k]` of the header the request names (spec/10_state.md R20). -/
def State.hdr (s : State) (k : Nat) : Byte := headerByte s.mem s.port.buf k

/-- The stream_id word: `H[0]` is its most significant byte (R21, R50). -/
def State.streamIdWord (s : State) : BitVec 64 :=
  s.hdr 0 ++ s.hdr 1 ++ s.hdr 2 ++ s.hdr 3 ++ s.hdr 4 ++ s.hdr 5 ++ s.hdr 6 ++ s.hdr 7

/-- Word A: `H[8]` is its most significant byte (R22, R50). -/
def State.wordA (s : State) : BitVec 32 :=
  s.hdr 8 ++ s.hdr 9 ++ s.hdr 10 ++ s.hdr 11

/-- Word B: `H[12]` is its most significant byte (R23, R50). -/
def State.wordB (s : State) : BitVec 64 :=
  s.hdr 12 ++ s.hdr 13 ++ s.hdr 14 ++ s.hdr 15 ++ s.hdr 16 ++ s.hdr 17 ++ s.hdr 18 ++ s.hdr 19

/-- The bits of word A outside every field (R26). -/
def unassignedA : BitVec 32 := 0xFF7400FE

/-- The bits of word B outside every field (R26). -/
def unassignedB : BitVec 64 := 0x0000000000FF0000

/-! ## How a transaction ends -/

/-- The transaction completes with status OK and the value `v` on `rdata`, and nothing but the response port
changes. -/
def AnswersValue (i : Instr) (s : State) (v : Value) : Prop :=
  exec i s = .next { s with response := some { status := 0b00, rdata := v } }

/-- The transaction completes with `status`, `rdata` is whatever it is, and nothing but the response port (and the
model's count of free values) changes: no byte of any header, no tag. -/
def EndsUnchanged (i : Instr) (s : State) (status : BitVec 2) : Prop :=
  ∃ rdata draws, exec i s = .next { s with response := some { status := status, rdata := rdata }, draws := draws }

/-- Nothing outside the header bytes, the response port, the collaborator's tag and the model's count of free
values differs, and the header bytes differ at most at `H[k]` for `k` in `ks`, of the header `s` names. -/
def WritesAtMost (ks : List Nat) (s t : State) : Prop :=
  t.port = s.port ∧ t.pending = s.pending ∧ t.collabAnswer = s.collabAnswer ∧
  ∀ a, (∀ k ∈ ks, a ≠ headerAddr s.port.buf k) → readByte t.mem a = readByte s.mem a

/-- The transaction completes with status OK, writes at most `H[k]` for `k` in `ks`, leaves the collaborator's tag,
and the state after it satisfies `post`. -/
def Stores (i : Instr) (s : State) (ks : List Nat) (post : State → Prop) : Prop :=
  ∃ t rdata, exec i s = .next t ∧ t.response = some { status := 0b00, rdata := rdata } ∧
    WritesAtMost ks s t ∧ t.collabTag = s.collabTag ∧ post t

/-- What a GET rule says: the command word, the value when both presence inputs are 1, and InvalidArgument with
nothing changed when one of them is 0. -/
def GetRule (c : Cmd) (i : Instr) (value : State → Value) : Prop :=
  decodeCmd c = i ∧ ∀ s : State,
    (s.port.hdrPresent = true → s.port.outPresent = true → AnswersValue i s (value s)) ∧
    (s.port.hdrPresent = false → EndsUnchanged i s 0b01) ∧
    (s.port.outPresent = false → EndsUnchanged i s 0b01)

/-- What a SET rule says: the command word, the store when the header is present and the value is accepted,
InvalidValue when it is not accepted, and InvalidArgument without a header, both with nothing changed. -/
def SetRule (c : Cmd) (i : Instr) (accepts : Value → Prop) (ks : List Nat) (post : State → State → Prop) : Prop :=
  decodeCmd c = i ∧ ∀ s : State,
    (s.port.hdrPresent = true → accepts s.port.wdata → Stores i s ks (post s)) ∧
    (s.port.hdrPresent = true → ¬ accepts s.port.wdata → EndsUnchanged i s 0b10) ∧
    (s.port.hdrPresent = false → EndsUnchanged i s 0b01)

/-- Two responses tell the requester the same: the same status, and the same `rdata` after a GET with status OK
(`rdata` is unspecified in every other case, spec/30_encoding.md R76). -/
def SameAnswer (i : Instr) (t u : State) : Prop :=
  ∃ r q, t.response = some r ∧ u.response = some q ∧ r.status = q.status ∧
    (i.op = 0b00 → r.status = 0b00 → r.rdata = q.rdata)

/-! ## The instruction of a field -/

/-- The SET of a stored field (spec/30_encoding.md R78). -/
def Field.setter (f : Field) : Instr :=
  match f with
  | .streamId => .setStreamId
  | .sv => .setSv
  | .mr => .setMr
  | .fs => .setFs
  | .tv => .setTv
  | .tu => .setTu
  | .seqNum => .setSeqNum
  | .type => .setType
  | .baseFreq => .setBaseFreq
  | .crfDataLen => .setCrfDataLen
  | .timestampInterval => .setTimestampInterval

/-- The GET word of a stored field; TV's is an illegal encoding (R78, R135). -/
def Field.getter (f : Field) : Instr :=
  match f with
  | .streamId => .getStreamId
  | .sv => .getSv
  | .mr => .getMr
  | .fs => .getFs
  | .tv => .getTv
  | .tu => .getTu
  | .seqNum => .getSeqNum
  | .type => .getType
  | .baseFreq => .getBaseFreq
  | .crfDataLen => .getCrfDataLen
  | .timestampInterval => .getTimestampInterval

/-! ## The errors -/

/-- The 11 rates of the translator ROM, as `wdata` carries them (spec/41_freq_translator.md R122). -/
def tableRates : List Value :=
  [0, 8000, 11025, 16000, 22050, 32000, 44100, 48000, 64000, 88200, 96000]

/-- FIELD 12 to 15 on GET or SET, or GET TV (spec/60_exceptions.md R181). -/
def namesNoAccessor (i : Instr) : Bool :=
  match i with
  | .getTv => true
  | .getUnrecognised _ => true
  | .setUnrecognised _ => true
  | _ => false

/-- The INIT words. -/
def isInit (i : Instr) : Bool :=
  match i with
  | .init _ => true
  | _ => false

/-- The value check of a SET and the code check of GET BASE_FREQ, as R182 lists them. -/
def failsValueCheck (i : Instr) (s : State) : Bool :=
  match i with
  | .setSv => decide (2 ≤ s.port.wdata.toNat)
  | .setMr => decide (2 ≤ s.port.wdata.toNat)
  | .setFs => decide (2 ≤ s.port.wdata.toNat)
  | .setTv => decide (2 ≤ s.port.wdata.toNat)
  | .setTu => decide (2 ≤ s.port.wdata.toNat)
  | .setSeqNum => decide (256 ≤ s.port.wdata.toNat)
  | .setType => decide (65536 ≤ s.port.wdata.toNat)
  | .setCrfDataLen => decide (65536 ≤ s.port.wdata.toNat)
  | .setTimestampInterval => decide (65536 ≤ s.port.wdata.toNat)
  | .setBaseFreq => decide (s.port.wdata ∉ tableRates)
  | .setPull => decide (s.port.wdata ≠ Config.pullX1)
  | .getBaseFreq => decide (11 ≤ (s.hdr 16).toNat)
  | _ => false

/-- The error checks in the order of R184, each with the status it gives: the reserved OP, `hdr_present`,
`out_present` for GET, the field code, the value or code check, and for INIT the collaborator's answer. -/
def errorChecks (i : Instr) (s : State) : List (Bool × BitVec 2) :=
  [(decide (i.op = 0b11), 0b01),
   (!s.port.hdrPresent, 0b01),
   (decide (i.op = 0b00) && !s.port.outPresent, 0b01),
   (namesNoAccessor i, 0b01),
   (failsValueCheck i s, 0b10),
   (isInit i && decide (s.collabAnswer = .error .invalidArgument), 0b01),
   (isInit i && decide (s.collabAnswer = .error .invalidValue), 0b10)]

/-- The status of the first check that fails; 0b00 (OK) if none does. -/
def firstError (checks : List (Bool × BitVec 2)) : BitVec 2 :=
  match checks with
  | [] => 0b00
  | (failed, status) :: rest => if failed then status else firstError rest

/-! ## The invariant -/

/-- The status on the response ports is one the block drives: never 0b11 (R75). -/
def State.statusLegal (s : State) : Bool :=
  match s.response with
  | none => true
  | some r => decide (r.status ≠ 0b11)

/-- What every step keeps: memory in its canonical form, and a status the block drives. -/
def State.Inv (s : State) : Prop :=
  Memory.wf s.mem = true ∧ s.statusLegal = true

end Sys2Proof.Machine
end

