-- ==== Sys2Proof/Certificates/Slice0/Obligations.lean ====
section
/-! DEFINITION. The statements for the provers, in the order of OBLIGATIONS.json. -/

open Sys2Proof Sys2Proof.Machine

/-! ## Command words -/

/-- The whole opcode map (spec/30_encoding.md R78, with the OP values of R72 and the FIELD codes of R73). -/
def Obligations.OpcodeMapGivesEachWordItsRow : Prop :=
  decodeCmd 0x00 = .getStreamId ∧ decodeCmd 0x01 = .getSv ∧ decodeCmd 0x02 = .getMr ∧
  decodeCmd 0x03 = .getFs ∧ decodeCmd 0x04 = .getTv ∧ decodeCmd 0x05 = .getTu ∧
  decodeCmd 0x06 = .getSeqNum ∧ decodeCmd 0x07 = .getType ∧ decodeCmd 0x08 = .getBaseFreq ∧
  decodeCmd 0x09 = .getCrfDataLen ∧ decodeCmd 0x0A = .getTimestampInterval ∧ decodeCmd 0x0B = .getPull ∧
  decodeCmd 0x0C = .getUnrecognised 12 ∧ decodeCmd 0x0D = .getUnrecognised 13 ∧
  decodeCmd 0x0E = .getUnrecognised 14 ∧ decodeCmd 0x0F = .getUnrecognised 15 ∧
  decodeCmd 0x10 = .setStreamId ∧ decodeCmd 0x11 = .setSv ∧ decodeCmd 0x12 = .setMr ∧
  decodeCmd 0x13 = .setFs ∧ decodeCmd 0x14 = .setTv ∧ decodeCmd 0x15 = .setTu ∧
  decodeCmd 0x16 = .setSeqNum ∧ decodeCmd 0x17 = .setType ∧ decodeCmd 0x18 = .setBaseFreq ∧
  decodeCmd 0x19 = .setCrfDataLen ∧ decodeCmd 0x1A = .setTimestampInterval ∧ decodeCmd 0x1B = .setPull ∧
  decodeCmd 0x1C = .setUnrecognised 12 ∧ decodeCmd 0x1D = .setUnrecognised 13 ∧
  decodeCmd 0x1E = .setUnrecognised 14 ∧ decodeCmd 0x1F = .setUnrecognised 15 ∧
  (∀ field : FieldCode, decodeCmd ((0b10 : BitVec 2) ++ field) = .init field) ∧
  (∀ field : FieldCode, decodeCmd ((0b11 : BitVec 2) ++ field) = .rsv field)

/-- One fixed-length format, and exactly one row for each of the 64 words (R81): the byte decoder takes one byte and
leaves the rest, and the instruction `decodeCmd` reads is the only well-formed one with that command word. The first
clause rests on the model's choice of one byte for a command word (notes/assumptions/12.md). -/
def Obligations.ExactlyOneInstructionPerCommandWord : Prop :=
  (∀ (b : Byte) (rest rest' : List Byte) (i : Instr), decode (b :: rest) = .ok (i, rest') → rest' = rest) ∧
  ∀ c : Cmd, (decodeCmd c).wellFormed = true ∧ encode (decodeCmd c) = c ∧
    ∀ j : Instr, j.wellFormed = true → encode j = c → j = decodeCmd c

/-- Decoding the bytes of a well-formed instruction gives it back and leaves what follows, and so does the host's
view of its word. (That a command word is one byte with bits 7 and 6 zero is the model's choice,
notes/assumptions/12.md.) -/
def Obligations.DecodeOfEncodeIsTheInstruction : Prop :=
  ∀ i : Instr, i.wellFormed = true →
    (∀ rest : List Byte, decode (encodeBytes i ++ rest) = .ok (i, rest)) ∧
    decodeTableWord 8 (encode i).toNat = some i

/-- A byte above 0x3F is no command word and is refused by name, and so are no bytes (the model's choice,
notes/assumptions/12.md: the spec gives no byte layout of the 6-bit `cmd`). -/
def Obligations.BytesBeyondTheCommandAreRefused : Prop :=
  (∀ (b : Byte) (rest : List Byte), 64 ≤ b.toNat → decode (b :: rest) = .error (.notACommandWord b)) ∧
  decode [] = .error .noBytes

/-! ## The bit accessor -/

/-- `MemRead` and `MemWrite` are big-endian for every number of bytes (spec/40_bit_accessor.md R101): byte `i` holds
bits 8(n-1-i)+7 down to 8(n-1-i). A write touches its `n` bytes only, and reading it back gives what was written. -/
def Obligations.MemReadAndMemWriteAreBigEndian : Prop :=
  ∀ (m : Memory) (a n : Nat),
    (∀ i, i < n → (memRead m a n).extractLsb' (8 * (n - 1 - i)) 8 = readByte m (a + i)) ∧
    ∀ w : BitVec (8 * n),
      (∀ i, i < n → readByte (memWrite m a n w) (a + i) = w.extractLsb' (8 * (n - 1 - i)) 8) ∧
      (∀ x, x < a ∨ a + n ≤ x → readByte (memWrite m a n w) x = readByte m x) ∧
      memRead (memWrite m a n w) a n = w

/-- The four laws of Extract and Insert (R104), for any word and any field that lies inside the word. -/
def Obligations.ExtractAndInsertLaws : Prop :=
  ∀ (n width shift : Nat) (w v : BitVec n), width + shift ≤ n →
    (insertBits w v (ones n width <<< shift) shift &&& ~~~(ones n width <<< shift) = w &&& ~~~(ones n width <<< shift)) ∧
    (v.toNat < 2 ^ width →
      extractBits (insertBits w v (ones n width <<< shift) shift) (ones n width <<< shift) shift = v) ∧
    (insertBits w (extractBits w (ones n width <<< shift) shift) (ones n width <<< shift) shift = w) ∧
    (∀ width' shift' : Nat, width' + shift' ≤ n →
      (ones n width <<< shift) &&& (ones n width' <<< shift') = 0 →
      extractBits (insertBits w v (ones n width <<< shift) shift) (ones n width' <<< shift') shift' =
        extractBits w (ones n width' <<< shift') shift')

/-- Every field's mask is `ones(width) << shift`, and no two fields of a word share a bit (spec/10_state.md R25). -/
def Obligations.FieldMasksAreOnesShiftedAndDisjoint : Prop :=
  (∀ f : Field, f.mask = ones (8 * f.sel.size) f.width <<< f.shift) ∧
  (∀ f g : Field, f ≠ g → f.sel = g.sel → f.mask.toNat &&& g.mask.toNat = 0) ∧
  Field.mask .sv = (0x00800000 : BitVec 32) ∧ Field.mask .mr = (0x00080000 : BitVec 32) ∧
  Field.mask .fs = (0x00020000 : BitVec 32) ∧ Field.mask .tv = (0x00010000 : BitVec 32) ∧
  Field.mask .tu = (0x00000001 : BitVec 32) ∧ Field.mask .seqNum = (0x0000FF00 : BitVec 32) ∧
  Field.mask .crfDataLen = (0xFFFF000000000000 : BitVec 64) ∧
  Field.mask .type = (0x0000FFFF00000000 : BitVec 64) ∧
  Field.mask .baseFreq = (0x00000000FF000000 : BitVec 64) ∧
  Field.mask .timestampInterval = (0x000000000000FFFF : BitVec 64)

/-- `Desc` and `HasGet` on all 16 codes (spec/40_bit_accessor.md R105): codes 0 to 10 are the stored fields of the
table of R24 with their word, width and shift, code 11 is virtual, codes 12 to 15 are unknown; an unknown code makes
GET and SET raise InvalidArgument with nothing changed. -/
def Obligations.FieldCodeLookupIsTotalAndClosed : Prop :=
  (desc 0 = .stored .streamId ∧ Field.sel .streamId = .sid ∧ Field.width .streamId = 64 ∧ Field.shift .streamId = 0) ∧
  (desc 1 = .stored .sv ∧ Field.sel .sv = .a ∧ Field.width .sv = 1 ∧ Field.shift .sv = 23) ∧
  (desc 2 = .stored .mr ∧ Field.sel .mr = .a ∧ Field.width .mr = 1 ∧ Field.shift .mr = 19) ∧
  (desc 3 = .stored .fs ∧ Field.sel .fs = .a ∧ Field.width .fs = 1 ∧ Field.shift .fs = 17) ∧
  (desc 4 = .stored .tv ∧ Field.sel .tv = .a ∧ Field.width .tv = 1 ∧ Field.shift .tv = 16) ∧
  (desc 5 = .stored .tu ∧ Field.sel .tu = .a ∧ Field.width .tu = 1 ∧ Field.shift .tu = 0) ∧
  (desc 6 = .stored .seqNum ∧ Field.sel .seqNum = .a ∧ Field.width .seqNum = 8 ∧ Field.shift .seqNum = 8) ∧
  (desc 7 = .stored .type ∧ Field.sel .type = .b ∧ Field.width .type = 16 ∧ Field.shift .type = 32) ∧
  (desc 8 = .stored .baseFreq ∧ Field.sel .baseFreq = .b ∧ Field.width .baseFreq = 8 ∧ Field.shift .baseFreq = 24) ∧
  (desc 9 = .stored .crfDataLen ∧ Field.sel .crfDataLen = .b ∧ Field.width .crfDataLen = 16 ∧
    Field.shift .crfDataLen = 48) ∧
  (desc 10 = .stored .timestampInterval ∧ Field.sel .timestampInterval = .b ∧
    Field.width .timestampInterval = 16 ∧ Field.shift .timestampInterval = 0) ∧
  desc 11 = .virtual ∧ desc 12 = .unknown ∧ desc 13 = .unknown ∧ desc 14 = .unknown ∧ desc 15 = .unknown ∧
  (∀ f : Field, f.isTranslated = true ↔ f = .baseFreq) ∧
  (∀ code : FieldCode, hasGet code = false ↔ code ∈ ([4, 12, 13, 14, 15] : List FieldCode)) ∧
  (∀ (code : FieldCode) (s : State), desc code = .unknown →
    EndsUnchanged (decodeCmd ((0b00 : BitVec 2) ++ code)) s 0b01 ∧
      EndsUnchanged (decodeCmd ((0b01 : BitVec 2) ++ code)) s 0b01)

/-- `FieldGet` and `FieldPut` go through Extract and Insert on the field's container word, and for STREAM_ID they
are the plain 8-byte read and write (R106, with the word offsets of R100). -/
def Obligations.FieldAccessGoesThroughItsWord : Prop :=
  ∀ (m : Memory) (b : Nat) (v : Value),
    (∀ f : Field, fieldGet m b f =
      (extractBits (memRead m (headerAddr b f.sel.off) f.sel.size) f.mask f.shift).setWidth 64) ∧
    (∀ f : Field, fieldPut m b f v = memWrite m (headerAddr b f.sel.off) f.sel.size
      (insertBits (memRead m (headerAddr b f.sel.off) f.sel.size) (v.setWidth (8 * f.sel.size)) f.mask f.shift)) ∧
    fieldGet m b .streamId = memRead m (headerAddr b 0) 8 ∧
    fieldPut m b .streamId v = memWrite m (headerAddr b 0) 8 v ∧
    WordSel.off .sid = 0 ∧ WordSel.size .sid = 8 ∧ WordSel.off .a = 8 ∧ WordSel.size .a = 4 ∧
    WordSel.off .b = 12 ∧ WordSel.size .b = 8

/-- The range check (R107): all 64 bits of the value count, every value fits STREAM_ID, and a SET of a stored field
without a translator of a value that does not fit raises InvalidValue with nothing changed. -/
def Obligations.RangeCheckComparesAllValueBits : Prop :=
  (∀ (f : Field) (v : Value), (fits f v = true ↔ v.toNat < 2 ^ f.width) ∧ (fits f v = true ↔ v >>> f.width = 0)) ∧
  (∀ v : Value, fits .streamId v = true) ∧
  (∀ (f : Field) (s : State), f.isTranslated = false → s.port.hdrPresent = true →
    fits f s.port.wdata = false → EndsUnchanged f.setter s 0b10)

/-- Unassigned bits (spec/10_state.md R26): they are the bits outside every field; no GET reads one; every SET keeps
them; INIT clears them, whatever the collaborator answers. -/
def Obligations.UnassignedBitsAreIgnoredKeptAndCleared : Prop :=
  (∀ k, k < 32 → (unassignedA.getLsbD k = true ↔ ∀ f : Field, f.sel = .a → f.mask.getLsbD k = false)) ∧
  (∀ k, k < 64 → (unassignedB.getLsbD k = true ↔ ∀ f : Field, f.sel = .b → f.mask.getLsbD k = false)) ∧
  (∀ k, k < 64 → (Field.mask .streamId).getLsbD k = true) ∧
  (∀ (i : Instr) (s u : State), i.op = 0b00 → s.port = u.port → s.streamIdWord = u.streamIdWord →
    s.wordA &&& ~~~unassignedA = u.wordA &&& ~~~unassignedA →
    s.wordB &&& ~~~unassignedB = u.wordB &&& ~~~unassignedB →
    ∃ t v, exec i s = .next t ∧ exec i u = .next v ∧ SameAnswer i t v) ∧
  (∀ (i : Instr) (s : State), i.op = 0b01 →
    ∃ t, exec i s = .next t ∧ t.wordA &&& unassignedA = s.wordA &&& unassignedA ∧
      t.wordB &&& unassignedB = s.wordB &&& unassignedB) ∧
  (∀ (field : FieldCode) (s : State), s.port.hdrPresent = true →
    ∃ t, exec (.init field) s = .next t ∧ t.wordA &&& unassignedA = 0 ∧ t.wordB &&& unassignedB = 0)

/-! ## The translator -/

/-- The contents of the translator ROM (R28) and the worked values (spec/41_freq_translator.md R123). -/
def Obligations.TranslatorRomHoldsTheTable : Prop :=
  freqRom = [0, 8000, 11025, 16000, 22050, 32000, 44100, 48000, 64000, 88200, 96000] ∧
  freqRom.length = freqEntries ∧ freqEntries = 11 ∧ freqRom.Nodup ∧ (∀ hz ∈ freqRom, hz < 2 ^ 17) ∧
  freqEncode 48000 = .ok 7 ∧ freqEncode 44100 = .ok 6 ∧ freqEncode 99999 = .error .invalidValue

/-- Decode and encode of the translator (R120, R121): decode answers the entry of the code, zero-extended, and
InvalidValue from 11 on; encode compares all 64 bits and answers the one matching code, else InvalidValue. -/
def Obligations.TranslatorDecodesAndEncodesByTheTable : Prop :=
  (∀ c : Byte, 11 ≤ c.toNat → freqDecode c = .error .invalidValue) ∧
  (∀ (c : Byte) (hz : Nat), freqRom[c.toNat]? = some hz → freqDecode c = .ok (BitVec.ofNat 64 hz)) ∧
  (∀ (r : Value) (c : Byte), freqEncode r = .ok c ↔ ∃ hz, freqRom[c.toNat]? = some hz ∧ r.toNat = hz) ∧
  (∀ r : Value, (∀ hz ∈ freqRom, r.toNat ≠ hz) → freqEncode r = .error .invalidValue)

/-- The laws of the translator (R122): both round trips, and exactly which rates and codes are accepted. -/
def Obligations.TranslatorRoundTrips : Prop :=
  (∀ hz ∈ freqRom, ∃ c, freqEncode (BitVec.ofNat 64 hz) = .ok c ∧ freqDecode c = .ok (BitVec.ofNat 64 hz)) ∧
  (∀ c : Byte, c.toNat < 11 → ∃ r, freqDecode c = .ok r ∧ freqEncode r = .ok c) ∧
  (∀ r : Value, (∃ c, freqEncode r = .ok c) ↔ r ∈ tableRates) ∧
  (∀ c : Byte, (∃ r, freqDecode c = .ok r) ↔ c.toNat < 11)

/-! ## GET -/

/-- GET STREAM_ID (spec/42_get.md R131): the 8 bytes, the first most significant, with no mask. -/
def Obligations.GetStreamIdReadsTheWholeWord : Prop :=
  GetRule 0x00 .getStreamId fun s => s.streamIdWord

/-- GET SV, MR, FS and TU (R132, R133, R134, R136): one bit of word A, and the same bit of its byte. -/
def Obligations.GetFlagReadsItsBit : Prop :=
  (GetRule 0x01 .getSv fun s => ((s.wordA &&& 0x00800000) >>> 23).setWidth 64) ∧
  (GetRule 0x02 .getMr fun s => ((s.wordA &&& 0x00080000) >>> 19).setWidth 64) ∧
  (GetRule 0x03 .getFs fun s => ((s.wordA &&& 0x00020000) >>> 17).setWidth 64) ∧
  (GetRule 0x05 .getTu fun s => (s.wordA &&& 0x00000001).setWidth 64) ∧
  ∀ s : State,
    ((s.wordA &&& 0x00800000) >>> 23).setWidth 64 = (BitVec.ofBool ((s.hdr 9).getLsbD 7)).setWidth 64 ∧
    ((s.wordA &&& 0x00080000) >>> 19).setWidth 64 = (BitVec.ofBool ((s.hdr 9).getLsbD 3)).setWidth 64 ∧
    ((s.wordA &&& 0x00020000) >>> 17).setWidth 64 = (BitVec.ofBool ((s.hdr 9).getLsbD 1)).setWidth 64 ∧
    (s.wordA &&& 0x00000001).setWidth 64 = (BitVec.ofBool ((s.hdr 11).getLsbD 0)).setWidth 64

/-- GET SEQ_NUM (R137): bits 15..8 of word A, which are exactly `H[10]`. -/
def Obligations.GetSeqNumReadsByteTen : Prop :=
  (GetRule 0x06 .getSeqNum fun s => ((s.wordA &&& 0x0000FF00) >>> 8).setWidth 64) ∧
  ∀ s : State, ((s.wordA &&& 0x0000FF00) >>> 8).setWidth 64 = (s.hdr 10).setWidth 64

/-- GET TYPE, CRF_DATA_LEN and TIMESTAMP_INTERVAL (R138, R140, R141): 16 bits of word B, which are two bytes. -/
def Obligations.GetSixteenBitFieldsOfWordB : Prop :=
  (GetRule 0x07 .getType fun s => (s.wordB &&& 0x0000FFFF00000000) >>> 32) ∧
  (GetRule 0x09 .getCrfDataLen fun s => (s.wordB &&& 0xFFFF000000000000) >>> 48) ∧
  (GetRule 0x0A .getTimestampInterval fun s => s.wordB &&& 0x000000000000FFFF) ∧
  ∀ s : State,
    (s.wordB &&& 0x0000FFFF00000000) >>> 32 = (s.hdr 14 ++ s.hdr 15).setWidth 64 ∧
    (s.wordB &&& 0xFFFF000000000000) >>> 48 = (s.hdr 12 ++ s.hdr 13).setWidth 64 ∧
    s.wordB &&& 0x000000000000FFFF = (s.hdr 18 ++ s.hdr 19).setWidth 64

/-- GET BASE_FREQ (R139): the wire code is `H[16]`; a code of the table answers its rate in Hz, a code of 11 or more
raises InvalidValue, and a missing header or result taker raises InvalidArgument first. -/
def Obligations.GetBaseFreqDecodesByteSixteen : Prop :=
  decodeCmd 0x08 = .getBaseFreq ∧ ∀ s : State,
    ((s.wordB &&& 0x00000000FF000000) >>> 24).setWidth 8 = s.hdr 16 ∧
    (s.port.hdrPresent = true → s.port.outPresent = true →
      (∀ hz, freqRom[(s.hdr 16).toNat]? = some hz → AnswersValue .getBaseFreq s (BitVec.ofNat 64 hz)) ∧
      (11 ≤ (s.hdr 16).toNat → EndsUnchanged .getBaseFreq s 0b10)) ∧
    (s.port.hdrPresent = false → EndsUnchanged .getBaseFreq s 0b01) ∧
    (s.port.outPresent = false → EndsUnchanged .getBaseFreq s 0b01)

/-- GET PULL (R142): the constant `PULL_X1`, whatever the header holds. -/
def Obligations.GetPullAnswersTheConstant : Prop :=
  GetRule 0x0B .getPull fun _ => Config.pullX1

/-- GET TV and GET of an unrecognised field (R135, R143): InvalidArgument always, with nothing changed. -/
def Obligations.GetTvAndUnrecognisedRaiseInvalidArgument : Prop :=
  decodeCmd 0x04 = .getTv ∧ (∀ s : State, EndsUnchanged .getTv s 0b01) ∧
  (∀ field : FieldCode, 12 ≤ field.toNat → decodeCmd ((0b00 : BitVec 2) ++ field) = .getUnrecognised field) ∧
  (∀ (field : FieldCode) (s : State), EndsUnchanged (.getUnrecognised field) s 0b01)

/-- Every GET completes and changes nothing but the response port (and the model's count of free values): no byte of
any header, no tag, no request. -/
def Obligations.EveryGetWritesNothing : Prop :=
  ∀ (i : Instr) (s : State), i.op = 0b00 → ∃ status, EndsUnchanged i s status

/-! ## SET -/

/-- SET STREAM_ID (spec/43_set.md R151): all 64 bits, most significant byte first; no value is out of range. -/
def Obligations.SetStreamIdStoresAllBits : Prop :=
  SetRule 0x10 .setStreamId (fun _ => True) [0, 1, 2, 3, 4, 5, 6, 7]
    fun s t => t.streamIdWord = s.port.wdata ∧ t.wordA = s.wordA ∧ t.wordB = s.wordB

/-- SET SV, MR, FS, TV and TU (R152 to R156): the flag's bit of word A takes the value, every other bit stays, one
byte is written, and a value of 2 or more raises InvalidValue. -/
def Obligations.SetFlagWritesItsBitOnly : Prop :=
  (SetRule 0x11 .setSv (fun v => v.toNat < 2) [9]
    fun s t => t.wordA = (s.wordA &&& ~~~(0x00800000 : BitVec 32)) ||| (s.port.wdata.setWidth 32 <<< 23)) ∧
  (SetRule 0x12 .setMr (fun v => v.toNat < 2) [9]
    fun s t => t.wordA = (s.wordA &&& ~~~(0x00080000 : BitVec 32)) ||| (s.port.wdata.setWidth 32 <<< 19)) ∧
  (SetRule 0x13 .setFs (fun v => v.toNat < 2) [9]
    fun s t => t.wordA = (s.wordA &&& ~~~(0x00020000 : BitVec 32)) ||| (s.port.wdata.setWidth 32 <<< 17)) ∧
  (SetRule 0x14 .setTv (fun v => v.toNat < 2) [9]
    fun s t => t.wordA = (s.wordA &&& ~~~(0x00010000 : BitVec 32)) ||| (s.port.wdata.setWidth 32 <<< 16)) ∧
  (SetRule 0x15 .setTu (fun v => v.toNat < 2) [11]
    fun s t => t.wordA = (s.wordA &&& ~~~(0x00000001 : BitVec 32)) ||| s.port.wdata.setWidth 32)

/-- SET SEQ_NUM (R157): `H[10]` takes the value, and a value of 256 or more raises InvalidValue (no wrap). -/
def Obligations.SetSeqNumWritesByteTen : Prop :=
  SetRule 0x16 .setSeqNum (fun v => v.toNat < 256) [10]
    fun s t => t.wordA = (s.wordA &&& ~~~(0x0000FF00 : BitVec 32)) ||| (s.port.wdata.setWidth 32 <<< 8) ∧
      t.hdr 10 = s.port.wdata.setWidth 8

/-- SET TYPE, CRF_DATA_LEN and TIMESTAMP_INTERVAL (R158, R160, R161): two bytes of word B take the value, and a value
of 65536 or more raises InvalidValue. -/
def Obligations.SetSixteenBitFieldsOfWordB : Prop :=
  (SetRule 0x17 .setType (fun v => v.toNat < 65536) [14, 15]
    fun s t => t.wordB = (s.wordB &&& ~~~(0x0000FFFF00000000 : BitVec 64)) ||| (s.port.wdata <<< 32)) ∧
  (SetRule 0x19 .setCrfDataLen (fun v => v.toNat < 65536) [12, 13]
    fun s t => t.wordB = (s.wordB &&& ~~~(0xFFFF000000000000 : BitVec 64)) ||| (s.port.wdata <<< 48)) ∧
  (SetRule 0x1A .setTimestampInterval (fun v => v.toNat < 65536) [18, 19]
    fun s t => t.wordB = (s.wordB &&& ~~~(0x000000000000FFFF : BitVec 64)) ||| s.port.wdata)

/-- SET BASE_FREQ (R159): `H[16]` takes the wire code of the rate, and a rate that is not one of the 11 raises
InvalidValue. -/
def Obligations.SetBaseFreqStoresTheWireCode : Prop :=
  SetRule 0x18 .setBaseFreq (fun v => v ∈ tableRates) [16]
    fun s t => ∃ c : Byte, freqRom[c.toNat]? = some s.port.wdata.toNat ∧ t.hdr 16 = c ∧
      t.wordB = (s.wordB &&& ~~~(0x00000000FF000000 : BitVec 64)) ||| (c.setWidth 64 <<< 24)

/-- SET PULL (R162): the value is checked against `PULL_X1` and nothing is written. -/
def Obligations.SetPullChecksAndWritesNothing : Prop :=
  SetRule 0x1B .setPull (fun v => v = Config.pullX1) [] fun s t => t.mem = s.mem

/-- SET of an unrecognised field (R163): InvalidArgument always, with nothing changed. -/
def Obligations.SetUnrecognisedRaisesInvalidArgument : Prop :=
  (∀ field : FieldCode, 12 ≤ field.toNat → decodeCmd ((0b01 : BitVec 2) ++ field) = .setUnrecognised field) ∧
  ∀ (field : FieldCode) (s : State), EndsUnchanged (.setUnrecognised field) s 0b01

/-! ## INIT and the reserved OP -/

/-- The parts of INIT in their order (spec/44_init.md R170, R171, R173): without a header, InvalidArgument with nothing
changed; with one, the header is zeroed; an error of the collaborator is passed on with `H` all zero; else the tag is
`SUBTYPE_CRF`, `H[9]` is 0x81 and every other byte is 0. No other header changes. -/
def Obligations.InitZeroesTagsAndSetsTwoFlags : Prop :=
  ∀ (field : FieldCode) (s : State), decodeCmd ((0b10 : BitVec 2) ++ field) = .init field ∧
    (s.port.hdrPresent = false → EndsUnchanged (.init field) s 0b01) ∧
    (∀ e : ErrorKind, s.port.hdrPresent = true → s.collabAnswer = .error e →
      ∃ t rdata, exec (.init field) s = .next t ∧ t.response = some { status := e.bits, rdata := rdata } ∧
        WritesAtMost (List.range 20) s t ∧ ∀ k, k < 20 → t.hdr k = 0) ∧
    (s.port.hdrPresent = true → s.collabAnswer = .ok →
      ∃ t rdata, exec (.init field) s = .next t ∧ t.response = some { status := 0b00, rdata := rdata } ∧
        WritesAtMost (List.range 20) s t ∧ t.collabTag = Config.subtypeCrf ∧
        ∀ k, k < 20 → t.hdr k = if k = 9 then 0x81 else 0)

/-- The state after an INIT that returns OK (R172, in bytes R205): the three words, the tag, and what every GET with a
value then answers. -/
def Obligations.InitLeavesTheDefaults : Prop :=
  ∀ (field : FieldCode) (s : State), s.port.hdrPresent = true → s.collabAnswer = .ok →
    ∃ t, exec (.init field) s = .next t ∧ t.wordA = 0x00810000 ∧ t.streamIdWord = 0 ∧ t.wordB = 0 ∧
      (List.range 20).map t.hdr =
        [0x00, 0x00, 0x00, 0x00, 0x00, 0x00, 0x00, 0x00, 0x00, 0x81, 0x00, 0x00, 0x00, 0x00, 0x00, 0x00, 0x00, 0x00,
          0x00, 0x00] ∧
      t.collabTag = Config.subtypeCrf ∧
      ∀ p : Request, p.buf = s.port.buf → p.hdrPresent = true → p.outPresent = true →
        AnswersValue .getSv { t with port := p } 1 ∧
        AnswersValue .getPull { t with port := p } Config.pullX1 ∧
        ∀ i ∈ [Instr.getStreamId, .getMr, .getFs, .getTu, .getSeqNum, .getType, .getBaseFreq, .getCrfDataLen,
            .getTimestampInterval], AnswersValue i { t with port := p } 0

/-- What INIT does not read (R174): its status, the bytes it leaves and, unless the collaborator failed, the tag are the
same for every FIELD, `wdata` and `out_present`; its two SETs cannot raise; so it fails only at the presence check and
at the collaborator. Nothing is said of `rdata`, nor of the tag after a failed call: both are unspecified. -/
def Obligations.InitReadsNoFieldNoValue : Prop :=
  (∀ (field field' : FieldCode) (s : State) (w : Value) (o : Bool),
    ∃ t u, exec (.init field) s = .next t ∧
      exec (.init field') { s with port := { s.port with wdata := w, outPresent := o } } = .next u ∧
      SameAnswer (.init field) t u ∧
      (∀ a, readByte t.mem a = readByte u.mem a) ∧
      (s.port.hdrPresent = false ∨ s.collabAnswer = .ok → t.collabTag = u.collabTag) ∧
      (∀ r, t.response = some r → r.status ≠ 0b00 →
        s.port.hdrPresent = false ∨ ∃ e, s.collabAnswer = .error e)) ∧
  (∀ s : State, s.port.hdrPresent = true →
    (∃ m, setResult 1 1 s = .ok m) ∧ (∃ m, setResult 4 1 s = .ok m))

/-- The reserved OP (spec/30_encoding.md R79): InvalidArgument for every FIELD and every input, with nothing
changed. -/
def Obligations.ReservedOpRaisesInvalidArgument : Prop :=
  ∀ (field : FieldCode) (s : State),
    decodeCmd ((0b11 : BitVec 2) ++ field) = .rsv field ∧ EndsUnchanged (.rsv field) s 0b01

/-! ## Errors -/

/-- The status codes (R75), and every transaction drives one of the three: 0b11 is never driven. -/
def Obligations.StatusIsOneOfTheThreeCodes : Prop :=
  Status.bits .ok = 0b00 ∧ Status.bits (.error .invalidArgument) = 0b01 ∧
  Status.bits (.error .invalidValue) = 0b10 ∧
  ∀ (i : Instr) (s : State), ∃ t r, exec i s = .next t ∧ t.response = some r ∧
    (r.status = 0b00 ∨ r.status = 0b01 ∨ r.status = 0b10)

/-- Which error each transaction reports (spec/60_exceptions.md R181, R182, R184): the status is that of the first
check, in the order of R184, that fails; and a failing transaction leaves everything unchanged unless it is an INIT
past its presence check (spec/20_memory.md R57). -/
def Obligations.StatusIsTheFirstErrorInPriorityOrder : Prop :=
  ∀ (i : Instr) (s : State), ∃ t r, exec i s = .next t ∧ t.response = some r ∧
    r.status = firstError (errorChecks i s) ∧
    (r.status ≠ 0b00 → isInit i = false ∨ s.port.hdrPresent = false → EndsUnchanged i s r.status) ∧
    (r.status ≠ 0b00 → isInit i = true → s.port.hdrPresent = true → ∀ k, k < 20 → t.hdr k = 0)

/-- The collaborator is called only by an INIT with a header: no other transaction changes its tag, and an INIT that
it answers with OK leaves `SUBTYPE_CRF` there. (One tag for all headers is the model's reading,
notes/assumptions/7.md.) -/
def Obligations.OnlyInitSetsTheSubtypeTag : Prop :=
  ∀ (i : Instr) (s : State), ∃ t, exec i s = .next t ∧
    (isInit i = false ∨ s.port.hdrPresent = false → t.collabTag = s.collabTag) ∧
    (isInit i = true → s.port.hdrPresent = true → s.collabAnswer = .ok → t.collabTag = Config.subtypeCrf)

/-! ## The whole machine -/

/-- A step runs the decoded instruction: with a request at the head of the host's list and no duty broken, the step is
`exec` of the instruction its command word decodes to, on the state with the request on the port and the list one
shorter; and the command word is what the byte decoder reads. The model's choices it goes through: requests stand in a
list (notes/assumptions/3.md), the collaborator's answer comes with the request (notes/assumptions/6.md), and the byte
decoder takes one byte (notes/assumptions/12.md). -/
def Obligations.StepRunsTheDecodedInstruction : Prop :=
  ∀ (s : State) (x : Stimulus) (rest : List Stimulus) (i : Instr) (bytes : List Byte),
    s.pending = x :: rest → x.duty = .kept → decode [x.request.cmd.setWidth 8] = .ok (i, bytes) →
    i.wellFormed = true ∧ bytes = [] ∧
    step s = exec i
      { s with port := x.request, collabAnswer := x.collab, pending := rest }

/-- Without a request the block waits and nothing changes (the spec's "the block waits for a request", R203). That
requests stand in a list is the model's choice (notes/assumptions/3.md), and so is that the response ports hold the
last response meanwhile (notes/assumptions/8.md), the request port the last request (notes/assumptions/4.md) and the
header its bytes (notes/assumptions/17.md). -/
def Obligations.StepWaitsWithoutRequest : Prop :=
  ∀ s : State, s.pending = [] → step s = .next s

/-- A host that breaks its duty has no move (R56, R192): the step stops with the fault that names the duty (the stop as
a fault is the model's choice, notes/assumptions/9.md). Without a header no duty can be broken. -/
def Obligations.StepStopsOnABrokenHostDuty : Prop :=
  ∀ (s : State) (x : Stimulus) (rest : List Stimulus), s.pending = x :: rest →
    (x.request.hdrPresent = true → x.duty = .overlapped → step s = .fault .overlappingTransaction) ∧
    (x.request.hdrPresent = true → x.duty = .bufferMoved → step s = .fault .headerMoved) ∧
    (x.request.hdrPresent = false → step s = exec (decodeCmd x.request.cmd) (s.accept x rest))

/-- Every step keeps the invariant: memory stays in its canonical form, and the response ports never carry the status
0b11. -/
def Obligations.EveryStepKeepsTheInvariant : Prop :=
  ∀ s t : State, s.Inv → step s = .next t → t.Inv

/-- The state after reset meets the invariant, and so does every reset with canonical header bytes from outside. -/
def Obligations.ResetMeetsTheInvariant : Prop :=
  State.reset.Inv ∧ ∀ (m : Memory) (tag : Byte), Memory.wf m = true → (State.resetWith m tag).Inv

/-- What reset leaves: the response ports are not driven until the first request completes, no request is pending or
survives, the header bytes and the tag are those the outside supplies (R200, R201, R203), and the first step waits.
That State.reset supplies zeros, and the idle port, are the model's choices (notes/assumptions/2.md, 4.md, 7.md). -/
def Obligations.ResetLeavesResponsePortsUndriven : Prop :=
  (∀ (m : Memory) (tag : Byte),
    (State.resetWith m tag).response = none ∧ (State.resetWith m tag).pending = [] ∧
    (State.resetWith m tag).mem = m ∧ (State.resetWith m tag).collabTag = tag ∧
    step (State.resetWith m tag) = .next (State.resetWith m tag)) ∧
  State.reset = State.resetWith [] 0

/-- Every transaction touches only the header it names (spec/10_state.md R36): every byte of every other header reads
as before. -/
def Obligations.OtherHeadersAreUntouched : Prop :=
  ∀ (i : Instr) (s : State), ∃ t, exec i s = .next t ∧
    (∀ a, (∀ k, k < 20 → a ≠ headerAddr s.port.buf k) → readByte t.mem a = readByte s.mem a) ∧
    (∀ b k, b ≠ s.port.buf → k < 20 → headerByte t.mem b k = headerByte s.mem b k)

/-- The result of a transaction depends only on the request, the current bytes of the header it names and, for INIT,
the collaborator's answer (R35): not on other headers, earlier responses, the tag, or what is pending. -/
def Obligations.ResultDependsOnRequestAndHeaderOnly : Prop :=
  ∀ (i : Instr) (s u : State), s.port = u.port → (isInit i = true → s.collabAnswer = u.collabAnswer) →
    (∀ k, k < 20 → s.hdr k = u.hdr k) →
    ∃ t v, exec i s = .next t ∧ exec i u = .next v ∧ SameAnswer i t v ∧ ∀ k, k < 20 → t.hdr k = v.hdr k

/-- Transactions on different header buffers (spec/20_memory.md R61): in either order each gives its requester the same
answer, and every byte of memory ends the same. -/
def Obligations.TransactionsOnDifferentHeadersCommute : Prop :=
  ∀ (s : State) (x y : Stimulus), x.request.buf ≠ y.request.buf →
    ∃ sx sxy sy syx,
      exec (decodeCmd x.request.cmd) (s.accept x []) = .next sx ∧
      exec (decodeCmd y.request.cmd) (sx.accept y []) = .next sxy ∧
      exec (decodeCmd y.request.cmd) (s.accept y []) = .next sy ∧
      exec (decodeCmd x.request.cmd) (sy.accept x []) = .next syx ∧
      SameAnswer (decodeCmd x.request.cmd) sx syx ∧ SameAnswer (decodeCmd y.request.cmd) sxy sy ∧
      ∀ a, readByte sxy.mem a = readByte syx.mem a

/-- A SET followed by a GET (spec/70_reset_and_hazards.md R208): the GET of the same field answers the value set, and
the GET of any other field answers what it would have answered before the SET. TV has no GET. -/
def Obligations.GetAfterSetSeesTheFieldSet : Prop :=
  ∀ (f : Field) (s : State), ∃ t r, exec f.setter s = .next t ∧ t.response = some r ∧
    (r.status = 0b00 → ∀ p : Request, p.buf = s.port.buf →
      (f ≠ .tv → p.hdrPresent = true → p.outPresent = true →
        AnswersValue f.getter { t with port := p } s.port.wdata) ∧
      (∀ g : Field, g ≠ f → ∃ u v, exec g.getter { s with port := p } = .next u ∧
        exec g.getter { t with port := p } = .next v ∧ SameAnswer g.getter u v))

/-- Repeated transactions (spec/20_memory.md R55): a GET changes no byte and the same GET again answers the same; the
same SET again leaves every byte as the first left it; so does INIT when the collaborator answers OK both times. -/
def Obligations.RepeatedTransactionsChangeNothingMore : Prop :=
  (∀ (i : Instr) (s : State), i.op = 0b00 → ∃ t u, exec i s = .next t ∧ t.mem = s.mem ∧ exec i t = .next u ∧
    SameAnswer i t u) ∧
  (∀ (i : Instr) (s : State), i.op = 0b01 → ∃ t u, exec i s = .next t ∧ exec i t = .next u ∧
    ∀ a, readByte u.mem a = readByte t.mem a) ∧
  (∀ (field : FieldCode) (s : State), s.collabAnswer = .ok →
    ∃ t u, exec (.init field) s = .next t ∧ exec (.init field) t = .next u ∧
      ∀ a, readByte u.mem a = readByte t.mem a)

/-- Every transaction the host issues completes when it keeps its duties, in the order of issue: as many steps as there
are requests pending lead to a next state with none pending. -/
def Obligations.EveryIssuedTransactionCompletes : Prop :=
  ∀ s : State, (∀ x ∈ s.pending, x.duty = .kept) →
    ∃ t, Host.Core.run Sys2Proof.core s.pending.length s = .next t ∧ t.pending = []

/-- The assembly notation (spec/30_encoding.md R82): each kind of line stands for the command word of the opcode map,
a SET's value becomes `wdata`, a suffix clears its presence input, and the rule's example line reads so. -/
def Obligations.AssemblyLinesStandForTheirRequests : Prop :=
  (∀ (field : FieldCode) (value : Value) (noHdr noOut : Bool) (b : Nat),
    ((AsmLine.request ⟨.get field, noHdr, noOut⟩ b).cmd = (0b00 : BitVec 2) ++ field) ∧
    ((AsmLine.request ⟨.set field value, noHdr, noOut⟩ b).cmd = (0b01 : BitVec 2) ++ field) ∧
    ((AsmLine.request ⟨.set field value, noHdr, noOut⟩ b).wdata = value) ∧
    ((AsmLine.request ⟨.init, noHdr, noOut⟩ b).cmd = 0x20) ∧
    ((AsmLine.request ⟨.rsv field, noHdr, noOut⟩ b).cmd = (0b11 : BitVec 2) ++ field) ∧
    ∀ op : AsmOp, (AsmLine.request ⟨op, noHdr, noOut⟩ b).hdrPresent = !noHdr ∧
      (AsmLine.request ⟨op, noHdr, noOut⟩ b).outPresent = !noOut) ∧
  assemble "GET SV !noout" = some ⟨.get 1, false, true⟩ ∧
  assemble "SET SEQ_NUM, 200" = some ⟨.set 6 200, false, false⟩ ∧
  assemble "INIT !nohdr" = some ⟨.init, true, false⟩ ∧
  assemble "RSV 15" = some ⟨.rsv 15, false, false⟩ ∧
  assemble "GET F12" = some ⟨.get 12, false, false⟩
end

