-- ==== Sys2Proof/Laws/Memory.lean ====
section
/-! SUPPORT. Memory: a read after a write, and the canonical form that every memory operation keeps. -/

namespace Sys2Proof.Machine

/-! ## Read after write -/

@[simp] theorem readByte_nil (a : Nat) : readByte [] a = 0 := rfl

theorem readByte_eraseCell (m : Memory) (a x : Nat) :
    readByte (eraseCell m a) x = if x = a then 0 else readByte m x := by
  induction m with
  | nil => simp [eraseCell]
  | cons c rest ih =>
    obtain ⟨b, v⟩ := c
    simp only [eraseCell, readByte]
    split
    · next h => subst h; rw [ih]; split <;> simp_all
    · next h =>
      simp only [readByte, ih]
      split
      · next hx => subst hx; simp [Ne.symm h]
      · rfl

theorem readByte_insertCell (m : Memory) (a x : Nat) (v : Byte)
    (hm : ∀ c ∈ m, c.1 ≠ a) :
    readByte (insertCell m a v) x = if x = a then v else readByte m x := by
  induction m with
  | nil => simp [insertCell, readByte, unlistedByte]
  | cons c rest ih =>
    obtain ⟨b, u⟩ := c
    have hb : b ≠ a := hm (b, u) (by simp)
    have hr := ih (fun c hc => hm c (by simp [hc]))
    simp only [insertCell]
    split
    · simp [readByte]
    · simp only [readByte, hr]
      by_cases hx : x = b
      · subst hx; simp [hb]
      · simp [hx]

theorem eraseCell_no_entry (m : Memory) (a : Nat) : ∀ c ∈ eraseCell m a, c.1 ≠ a := by
  induction m with
  | nil => simp [eraseCell]
  | cons c rest ih =>
    obtain ⟨b, v⟩ := c
    simp only [eraseCell]
    split
    · exact ih
    · next h =>
      intro c hc
      rcases List.mem_cons.1 hc with rfl | hc
      · exact fun hb => h hb.symm
      · exact ih c hc

/-- A read after a write: the byte written at its address, the old byte elsewhere. It holds of every list, in
canonical form or not. -/
theorem readByte_writeByte (m : Memory) (a x : Nat) (v : Byte) :
    readByte (writeByte m a v) x = if x = a then v else readByte m x := by
  unfold writeByte
  split
  · next h => rw [readByte_eraseCell, h]; rfl
  · rw [readByte_insertCell _ _ _ _ (eraseCell_no_entry m a), readByte_eraseCell]
    split <;> rfl

@[simp] theorem readByte_writeByte_same (m : Memory) (a : Nat) (v : Byte) :
    readByte (writeByte m a v) a = v := by
  simp [readByte_writeByte]

theorem readByte_writeByte_of_ne (m : Memory) {a x : Nat} (v : Byte) (h : x ≠ a) :
    readByte (writeByte m a v) x = readByte m x := by
  simp [readByte_writeByte, h]

/-- `MemWrite` leaves every byte outside its `n` bytes as it was. -/
theorem readByte_memWrite_outside (n : Nat) (m : Memory) (a x : Nat) (w : BitVec (8 * n))
    (h : x < a ∨ a + n ≤ x) : readByte (memWrite m a n w) x = readByte m x := by
  induction n generalizing m a with
  | zero => rfl
  | succ k ih =>
    rw [memWrite, ih _ _ _ (by omega), readByte_writeByte_of_ne _ _ (by omega)]

/-- Zeroing: 0 in the `n` bytes, the old byte elsewhere (R170). -/
theorem readByte_zeroBytes (n : Nat) (m : Memory) (a x : Nat) :
    readByte (zeroBytes m a n) x = if a ≤ x ∧ x < a + n then 0 else readByte m x := by
  induction n generalizing m a with
  | zero => simp [zeroBytes]
  | succ k ih =>
    rw [zeroBytes, ih, readByte_writeByte]
    by_cases h1 : x = a
    · subst h1; simp
    · by_cases h2 : a + 1 ≤ x ∧ x < a + 1 + k
      · rw [if_pos h2, if_pos (by omega)]
      · rw [if_neg h2, if_neg h1, if_neg (by omega)]

/-! ## The canonical form -/

theorem wfFrom_mono {lo hi : Nat} {m : Memory} (h : Memory.wfFrom hi m = true) (hl : lo ≤ hi) :
    Memory.wfFrom lo m = true := by
  cases m with
  | nil => rfl
  | cons c rest =>
    simp only [Memory.wfFrom, Bool.and_eq_true, decide_eq_true_eq] at h ⊢
    exact ⟨⟨by omega, h.1.2⟩, h.2⟩

theorem wfFrom_eraseCell (m : Memory) (lo a : Nat) (h : Memory.wfFrom lo m = true) :
    Memory.wfFrom lo (eraseCell m a) = true := by
  induction m generalizing lo with
  | nil => rfl
  | cons c rest ih =>
    obtain ⟨b, v⟩ := c
    simp only [Memory.wfFrom, Bool.and_eq_true, decide_eq_true_eq] at h
    simp only [eraseCell]
    split
    · exact wfFrom_mono (ih _ h.2) (by omega)
    · simp only [Memory.wfFrom, Bool.and_eq_true, decide_eq_true_eq]
      exact ⟨h.1, ih _ h.2⟩

theorem wfFrom_insertCell (m : Memory) (lo a : Nat) (v : Byte) (hlo : lo ≤ a) (hv : v ≠ unlistedByte)
    (hm : ∀ c ∈ m, c.1 ≠ a) (h : Memory.wfFrom lo m = true) :
    Memory.wfFrom lo (insertCell m a v) = true := by
  induction m generalizing lo with
  | nil => simp [insertCell, Memory.wfFrom, hlo, hv]
  | cons c rest ih =>
    obtain ⟨b, u⟩ := c
    have hb : b ≠ a := hm (b, u) (by simp)
    simp only [Memory.wfFrom, Bool.and_eq_true, decide_eq_true_eq] at h
    simp only [insertCell]
    split
    · simp only [Memory.wfFrom, Bool.and_eq_true, decide_eq_true_eq]
      exact ⟨⟨hlo, hv⟩, ⟨by omega, h.1.2⟩, h.2⟩
    · simp only [Memory.wfFrom, Bool.and_eq_true, decide_eq_true_eq]
      exact ⟨h.1, ih _ (by omega) (fun c hc => hm c (by simp [hc])) h.2⟩

/-- Writing a byte keeps the canonical form. -/
theorem writeByte_wf (m : Memory) (a : Nat) (v : Byte) (h : Memory.wf m = true) :
    Memory.wf (writeByte m a v) = true := by
  unfold writeByte
  split
  · exact wfFrom_eraseCell m 0 a h
  · next hv =>
    exact wfFrom_insertCell _ 0 a v (by omega) hv (eraseCell_no_entry m a) (wfFrom_eraseCell m 0 a h)

/-- `MemWrite` keeps the canonical form. -/
theorem memWrite_wf (n : Nat) (m : Memory) (a : Nat) (w : BitVec (8 * n)) (h : Memory.wf m = true) :
    Memory.wf (memWrite m a n w) = true := by
  induction n generalizing m a with
  | zero => exact h
  | succ k ih => exact ih _ _ _ (writeByte_wf _ _ _ h)

/-- Zeroing keeps the canonical form. -/
theorem zeroBytes_wf (n : Nat) (m : Memory) (a : Nat) (h : Memory.wf m = true) :
    Memory.wf (zeroBytes m a n) = true := by
  induction n generalizing m a with
  | zero => exact h
  | succ k ih => exact ih _ _ (writeByte_wf _ _ _ h)

/-- Memory at reset is canonical. -/
theorem reset_mem_wf : Memory.wf State.reset.mem = true := rfl

/-! ## Header addresses -/

/-- Two bytes of headers share an address only if they are the same byte of the same instance (R36, R58). -/
theorem headerAddr_injective {b b' k k' : Nat} (hk : k < hdrBytes) (hk' : k' < hdrBytes)
    (h : headerAddr b k = headerAddr b' k') : b = b' ∧ k = k' := by
  simp only [headerAddr, hdrBytes] at *
  omega

end Sys2Proof.Machine
end

