-- ==== Sys2Proof/Laws/PerInstr.lean ====
section
/-! SUPPORT. Facts about instructions as syntax, one lemma per constructor. -/

namespace Sys2Proof.Laws

/-- The OP bits of an instruction's command word are those of its operation (spec/30_encoding.md R71, R72). -/
def OpBits.Statement (i : Instr) : Prop := opBits (encode i) = i.op

theorem OpBits.getStreamId : OpBits.Statement .getStreamId := by unfold OpBits.Statement; decide
theorem OpBits.getSv : OpBits.Statement .getSv := by unfold OpBits.Statement; decide
theorem OpBits.getMr : OpBits.Statement .getMr := by unfold OpBits.Statement; decide
theorem OpBits.getFs : OpBits.Statement .getFs := by unfold OpBits.Statement; decide
theorem OpBits.getTv : OpBits.Statement .getTv := by unfold OpBits.Statement; decide
theorem OpBits.getTu : OpBits.Statement .getTu := by unfold OpBits.Statement; decide
theorem OpBits.getSeqNum : OpBits.Statement .getSeqNum := by unfold OpBits.Statement; decide
theorem OpBits.getType : OpBits.Statement .getType := by unfold OpBits.Statement; decide
theorem OpBits.getBaseFreq : OpBits.Statement .getBaseFreq := by unfold OpBits.Statement; decide
theorem OpBits.getCrfDataLen : OpBits.Statement .getCrfDataLen := by unfold OpBits.Statement; decide
theorem OpBits.getTimestampInterval : OpBits.Statement .getTimestampInterval := by unfold OpBits.Statement; decide
theorem OpBits.getPull : OpBits.Statement .getPull := by unfold OpBits.Statement; decide
theorem OpBits.getUnrecognised (field : FieldCode) : OpBits.Statement (.getUnrecognised field) := by
  unfold OpBits.Statement; revert field; decide
theorem OpBits.setStreamId : OpBits.Statement .setStreamId := by unfold OpBits.Statement; decide
theorem OpBits.setSv : OpBits.Statement .setSv := by unfold OpBits.Statement; decide
theorem OpBits.setMr : OpBits.Statement .setMr := by unfold OpBits.Statement; decide
theorem OpBits.setFs : OpBits.Statement .setFs := by unfold OpBits.Statement; decide
theorem OpBits.setTv : OpBits.Statement .setTv := by unfold OpBits.Statement; decide
theorem OpBits.setTu : OpBits.Statement .setTu := by unfold OpBits.Statement; decide
theorem OpBits.setSeqNum : OpBits.Statement .setSeqNum := by unfold OpBits.Statement; decide
theorem OpBits.setType : OpBits.Statement .setType := by unfold OpBits.Statement; decide
theorem OpBits.setBaseFreq : OpBits.Statement .setBaseFreq := by unfold OpBits.Statement; decide
theorem OpBits.setCrfDataLen : OpBits.Statement .setCrfDataLen := by unfold OpBits.Statement; decide
theorem OpBits.setTimestampInterval : OpBits.Statement .setTimestampInterval := by unfold OpBits.Statement; decide
theorem OpBits.setPull : OpBits.Statement .setPull := by unfold OpBits.Statement; decide
theorem OpBits.setUnrecognised (field : FieldCode) : OpBits.Statement (.setUnrecognised field) := by
  unfold OpBits.Statement; revert field; decide
theorem OpBits.init (field : FieldCode) : OpBits.Statement (.init field) := by
  unfold OpBits.Statement; revert field; decide
theorem OpBits.rsv (field : FieldCode) : OpBits.Statement (.rsv field) := by
  unfold OpBits.Statement; revert field; decide

end Sys2Proof.Laws
end

