-- ==== Sys2Proof/Laws/State.lean ====
section
/-! SUPPORT. What each named update of the state does to each field. -/

namespace Sys2Proof.Machine

section
variable (s : State) (st : Status) (e : ErrorKind) (v : Value) (x : Stimulus) (rest : List Stimulus)

/-! ## respond -/

@[simp] theorem State.respond_mem : (s.respond st v).mem = s.mem := rfl
@[simp] theorem State.respond_collabTag : (s.respond st v).collabTag = s.collabTag := rfl
@[simp] theorem State.respond_collabAnswer : (s.respond st v).collabAnswer = s.collabAnswer := rfl
@[simp] theorem State.respond_port : (s.respond st v).port = s.port := rfl
@[simp] theorem State.respond_response : (s.respond st v).response = some ⟨st.bits, v⟩ := rfl
@[simp] theorem State.respond_pending : (s.respond st v).pending = s.pending := rfl
@[simp] theorem State.respond_draws : (s.respond st v).draws = s.draws := rfl

/-! ## respondValue -/

@[simp] theorem State.respondValue_mem : (s.respondValue v).mem = s.mem := rfl
@[simp] theorem State.respondValue_collabTag : (s.respondValue v).collabTag = s.collabTag := rfl
@[simp] theorem State.respondValue_collabAnswer : (s.respondValue v).collabAnswer = s.collabAnswer := rfl
@[simp] theorem State.respondValue_port : (s.respondValue v).port = s.port := rfl
@[simp] theorem State.respondValue_response : (s.respondValue v).response = some ⟨0b00, v⟩ := rfl
@[simp] theorem State.respondValue_pending : (s.respondValue v).pending = s.pending := rfl
@[simp] theorem State.respondValue_draws : (s.respondValue v).draws = s.draws := rfl

/-! ## respondOk -/

@[simp] theorem State.respondOk_mem : s.respondOk.mem = s.mem := rfl
@[simp] theorem State.respondOk_collabTag : s.respondOk.collabTag = s.collabTag := rfl
@[simp] theorem State.respondOk_collabAnswer : s.respondOk.collabAnswer = s.collabAnswer := rfl
@[simp] theorem State.respondOk_port : s.respondOk.port = s.port := rfl
@[simp] theorem State.respondOk_response : s.respondOk.response = some ⟨0b00, Config.freeRdata s.draws⟩ := rfl
@[simp] theorem State.respondOk_pending : s.respondOk.pending = s.pending := rfl
@[simp] theorem State.respondOk_draws : s.respondOk.draws = s.draws + 1 := rfl

/-! ## raise -/

@[simp] theorem State.raise_mem : (s.raise e).mem = s.mem := rfl
@[simp] theorem State.raise_collabTag : (s.raise e).collabTag = s.collabTag := rfl
@[simp] theorem State.raise_collabAnswer : (s.raise e).collabAnswer = s.collabAnswer := rfl
@[simp] theorem State.raise_port : (s.raise e).port = s.port := rfl
@[simp] theorem State.raise_response : (s.raise e).response = some ⟨e.bits, Config.freeRdata s.draws⟩ := rfl
@[simp] theorem State.raise_pending : (s.raise e).pending = s.pending := rfl
@[simp] theorem State.raise_draws : (s.raise e).draws = s.draws + 1 := rfl

/-! ## accept -/

@[simp] theorem State.accept_mem : (s.accept x rest).mem = s.mem := rfl
@[simp] theorem State.accept_collabTag : (s.accept x rest).collabTag = s.collabTag := rfl
@[simp] theorem State.accept_collabAnswer : (s.accept x rest).collabAnswer = x.collab := rfl
@[simp] theorem State.accept_port : (s.accept x rest).port = x.request := rfl
@[simp] theorem State.accept_response : (s.accept x rest).response = s.response := rfl
@[simp] theorem State.accept_pending : (s.accept x rest).pending = rest := rfl
@[simp] theorem State.accept_draws : (s.accept x rest).draws = s.draws := rfl

end

/-- Everything a raise can do: the response and the draw counter, nothing else (R185). -/
theorem State.raise_eq (s : State) (e : ErrorKind) :
    s.raise e = { s with response := some ⟨e.bits, Config.freeRdata s.draws⟩, draws := s.draws + 1 } := rfl

/-- Everything an OK without a value can do. -/
theorem State.respondOk_eq (s : State) :
    s.respondOk = { s with response := some ⟨0b00, Config.freeRdata s.draws⟩, draws := s.draws + 1 } := rfl

/-- Everything the completion of a GET with a value can do. -/
theorem State.respondValue_eq (s : State) (v : Value) :
    s.respondValue v = { s with response := some ⟨0b00, v⟩ } := rfl

/-- The collaborator answers what the state says it answers. -/
@[simp] theorem State.collabSetSubtype_answer (s : State) (t : Byte) :
    (s.collabSetSubtype t).1 = s.collabAnswer := by
  unfold State.collabSetSubtype
  split <;> simp [*]

/-- Everything a call of the collaborator can do: the tag and the draw counter, nothing else (R30). -/
theorem State.collabSetSubtype_frame (s : State) (t : Byte) :
    ∃ tag d, (s.collabSetSubtype t).2 = { s with collabTag := tag, draws := d } := by
  unfold State.collabSetSubtype
  split
  · exact ⟨t, s.draws, rfl⟩
  · exact ⟨_, _, rfl⟩

/-- No error kind has the status 0b11 or 0b00 (R75). -/
theorem ErrorKind.bits_ne (e : ErrorKind) : e.bits ≠ 0b11 ∧ e.bits ≠ 0b00 := by
  cases e <;> decide

/-- No status is 0b11 (R75). -/
theorem Status.bits_ne_three (st : Status) : st.bits ≠ 0b11 := by
  cases st with
  | ok => decide
  | error e => exact e.bits_ne.1

/-- An error kind is read off its status. -/
theorem ErrorKind.bits_injective {e e' : ErrorKind} (h : e.bits = e'.bits) : e = e' := by
  cases e <;> cases e' <;> first | rfl | (exact absurd h (by decide))

end Sys2Proof.Machine
end

