-- ==== Sys2Proof/Laws/Transactions.lean ====
section
/-! SUPPORT. Everything each shared transaction can do, said once: GET, SET, INIT and the step. -/

namespace Sys2Proof.Machine

/-! ## Field writes -/

/-- A field write leaves every byte outside the field's container word as it was (R51, R54). -/
theorem readByte_fieldPut_outside (m : Memory) (b : Nat) (f : Field) (v : Value) (x : Nat)
    (h : x < headerAddr b f.sel.off ∨ headerAddr b f.sel.off + f.sel.size ≤ x) :
    readByte (fieldPut m b f v) x = readByte m x :=
  readByte_memWrite_outside _ _ _ _ _ h

/-- A field write keeps the canonical form. -/
theorem fieldPut_wf (m : Memory) (b : Nat) (f : Field) (v : Value) (h : Memory.wf m = true) :
    Memory.wf (fieldPut m b f v) = true :=
  memWrite_wf _ _ _ _ h

/-! ## GET -/

/-- Everything `GET(code)` can do: complete with a value, or raise (R130). -/
theorem getField_cases (code : FieldCode) (s : State) :
    (∃ v, getResult code s = .ok v ∧ getField code s = s.respondValue v) ∨
    (∃ e, getResult code s = .error e ∧ getField code s = s.raise e) := by
  unfold getField
  cases h : getResult code s with
  | ok v => exact .inl ⟨v, rfl, rfl⟩
  | error e => exact .inr ⟨e, rfl, rfl⟩

/-- A GET whose presence inputs are not both 1 (R77, R130). -/
theorem getField_absent (code : FieldCode) (s : State)
    (h : s.port.hdrPresent = false ∨ s.port.outPresent = false) :
    getField code s = s.raise .invalidArgument := by
  have : getResult code s = .error .invalidArgument := by
    unfold getResult
    rcases h with h | h <;> simp [h]
  simp [getField, this]

/-- A GET of a stored field that has a GET, with both presence inputs 1 (R130). -/
theorem getField_stored {code : FieldCode} {f : Field} {s : State} (hd : desc code = .stored f)
    (hg : hasGet code = true) (hp : s.port.hdrPresent = true) (ho : s.port.outPresent = true) :
    getField code s =
      match storedValue s.mem s.port.buf f with
      | .ok v => s.respondValue v
      | .error e => s.raise e := by
  have : getResult code s = storedValue s.mem s.port.buf f := by
    simp [getResult, hd, hg, hp, ho]
  cases h : storedValue s.mem s.port.buf f <;> simp [getField, this, h]

/-! ## SET -/

/-- The memory of an accepted SET of a stored field is one `FieldPut` (R150). -/
theorem storeValue_cases {m m' : Memory} {b : Nat} {f : Field} {v : Value}
    (h : storeValue m b f v = .ok m') : ∃ w, m' = fieldPut m b f w := by
  unfold storeValue at h
  split at h
  · split at h
    · cases h
    · next c _ => exact ⟨c.setWidth 64, by injection h with h; exact h.symm⟩
  · split at h
    · exact ⟨v, by injection h with h; exact h.symm⟩
    · cases h

/-- The memory of an accepted SET is the old one or the old one after one `FieldPut` on the request's header
(R150). -/
theorem setResult_cases {code : FieldCode} {v : Value} {s : State} {m' : Memory}
    (h : setResult code v s = .ok m') :
    s.port.hdrPresent = true ∧ (m' = s.mem ∨ ∃ f w, m' = fieldPut s.mem s.port.buf f w) := by
  unfold setResult at h
  split at h
  · cases h
  · next hp =>
    refine ⟨by simpa using hp, ?_⟩
    split at h
    · cases h
    · split at h
      · exact .inl (by injection h with h; exact h.symm)
      · cases h
    · next f _ => exact .inr ⟨f, storeValue_cases h⟩

/-- Everything `SET(code, wdata)` can do: complete with new header bytes, or raise (R150). -/
theorem setField_cases (code : FieldCode) (s : State) :
    (∃ m, setResult code s.port.wdata s = .ok m ∧ setField code s = State.respondOk { s with mem := m }) ∨
    (∃ e, setResult code s.port.wdata s = .error e ∧ setField code s = s.raise e) := by
  unfold setField
  cases h : setResult code s.port.wdata s with
  | ok m => exact .inl ⟨m, rfl, rfl⟩
  | error e => exact .inr ⟨e, rfl, rfl⟩

/-- A SET without a header (R77, R150). -/
theorem setField_absent (code : FieldCode) (s : State) (h : s.port.hdrPresent = false) :
    setField code s = s.raise .invalidArgument := by
  have : setResult code s.port.wdata s = .error .invalidArgument := by
    unfold setResult
    simp [h]
  simp [setField, this]

/-- A SET of a stored field with a header (R150). -/
theorem setField_stored {code : FieldCode} {f : Field} {s : State} (hd : desc code = .stored f)
    (hp : s.port.hdrPresent = true) :
    setField code s =
      match storeValue s.mem s.port.buf f s.port.wdata with
      | .ok m => State.respondOk { s with mem := m }
      | .error e => s.raise e := by
  have : setResult code s.port.wdata s = storeValue s.mem s.port.buf f s.port.wdata := by
    simp [setResult, hd, hp]
  cases h : storeValue s.mem s.port.buf f s.port.wdata <;> simp [setField, this, h]

/-! ## INIT -/

/-- The memory INIT leaves when it gets to the end. -/
theorem initFlags_of_present (s : State) (h : s.port.hdrPresent = true) :
    initFlags s = State.respondOk
      { s with mem := fieldPut (fieldPut s.mem s.port.buf .sv 1) s.port.buf .tv 1 } := by
  have hs : ∀ m : Memory, setResult 1 1 { s with mem := m } = .ok (fieldPut m s.port.buf .sv 1) := by
    intro m
    simp [setResult, h, desc, storeValue, Field.isTranslated, fits, Field.width]
  have ht : ∀ m : Memory, setResult 4 1 { s with mem := m } = .ok (fieldPut m s.port.buf .tv 1) := by
    intro m
    simp [setResult, h, desc, storeValue, Field.isTranslated, fits, Field.width]
  unfold initFlags
  rw [show s = { s with mem := s.mem } from rfl, hs]
  simp only [ht]

/-- INIT without a header (R171). -/
theorem initHeader_absent (s : State) (h : s.port.hdrPresent = false) :
    initHeader s = s.raise .invalidArgument := by
  simp [initHeader, h]

/-- INIT with a header and the collaborator's OK (R170). -/
theorem initHeader_ok (s : State) (h : s.port.hdrPresent = true) (hc : s.collabAnswer = .ok) :
    initHeader s = State.respondOk
      { s with
        mem := fieldPut (fieldPut (zeroBytes s.mem (headerAddr s.port.buf 0) hdrBytes) s.port.buf .sv 1)
          s.port.buf .tv 1
        collabTag := Config.subtypeCrf } := by
  simp [initHeader, h, initTag, State.collabSetSubtype, hc, initFlags_of_present]

/-- INIT with a header and an error of the collaborator: the zeroing stays, the error is passed on (R173). -/
theorem initHeader_error (s : State) (h : s.port.hdrPresent = true) (e : ErrorKind)
    (hc : s.collabAnswer = .error e) :
    initHeader s = State.raise
      { s with
        mem := zeroBytes s.mem (headerAddr s.port.buf 0) hdrBytes
        collabTag := Config.freeTag s.draws
        draws := s.draws + 1 } e := by
  simp [initHeader, h, initTag, State.collabSetSubtype, hc]

/-! ## The step -/

/-- Everything a step that answers a next state can do: wait, or perform the decoded transaction. -/
theorem step_cases {s t : State} (h : step s = .next t) :
    (s.pending = [] ∧ t = s) ∨
    (∃ x rest, s.pending = x :: rest ∧ x.brokenDuty = none ∧
      exec (decodeCmd x.request.cmd) (s.accept x rest) = .next t) := by
  unfold step State.nextRequest at h
  cases hp : s.pending with
  | nil => rw [hp] at h; injection h with h; exact .inl ⟨rfl, h.symm⟩
  | cons x rest =>
    rw [hp] at h
    cases hd : x.brokenDuty with
    | none => simp only [hd] at h; exact .inr ⟨x, rest, rfl, hd, h⟩
    | some f => simp only [hd] at h; cases h

end Sys2Proof.Machine
end

