-- ==== Sys2Proof/Laws/Words.lean ====
section
/-! SUPPORT. The container words as their header bytes, the byte at the lowest offset most significant. -/

namespace Sys2Proof.Machine

/-- The value of `k + 1` bytes: the first byte above the value of the rest (R101). -/
theorem memRead_succ_toNat (m : Memory) (a k : Nat) :
    (memRead m a (k + 1)).toNat = (readByte m a).toNat <<< (8 * k) ||| (memRead m (a + 1) k).toNat := by
  simp [memRead, BitVec.toNat_append]

/-- No bytes have the value 0. -/
theorem memRead_zero_toNat (m : Memory) (a : Nat) : (memRead m a 0).toNat = 0 := rfl

theorem append_four_toNat (b0 b1 b2 b3 : Byte) :
    (b0 ++ b1 ++ b2 ++ b3).toNat =
      b0.toNat <<< 24 ||| (b1.toNat <<< 16 ||| (b2.toNat <<< 8 ||| b3.toNat)) := by
  simp only [BitVec.toNat_append, Nat.shiftLeft_or_distrib, ← Nat.shiftLeft_add, Nat.or_assoc]

theorem append_eight_toNat (b0 b1 b2 b3 b4 b5 b6 b7 : Byte) :
    (b0 ++ b1 ++ b2 ++ b3 ++ b4 ++ b5 ++ b6 ++ b7).toNat =
      b0.toNat <<< 56 ||| (b1.toNat <<< 48 ||| (b2.toNat <<< 40 ||| (b3.toNat <<< 32 |||
        (b4.toNat <<< 24 ||| (b5.toNat <<< 16 ||| (b6.toNat <<< 8 ||| b7.toNat)))))) := by
  simp only [BitVec.toNat_append, Nat.shiftLeft_or_distrib, ← Nat.shiftLeft_add, Nat.or_assoc]

/-- Four bytes as one value (R101). -/
theorem memRead_four (m : Memory) (a : Nat) :
    memRead m a 4 =
      (readByte m a ++ readByte m (a + 1) ++ readByte m (a + 2) ++ readByte m (a + 3) : BitVec 32) := by
  apply BitVec.eq_of_toNat_eq
  refine Eq.trans ?_ (append_four_toNat _ _ _ _).symm
  simp only [memRead_succ_toNat, memRead_zero_toNat, Nat.reduceMul, Nat.shiftLeft_zero, Nat.or_zero, Nat.mul_one]

/-- Eight bytes as one value (R101). -/
theorem memRead_eight (m : Memory) (a : Nat) :
    memRead m a 8 =
      (readByte m a ++ readByte m (a + 1) ++ readByte m (a + 2) ++ readByte m (a + 3) ++
        readByte m (a + 4) ++ readByte m (a + 5) ++ readByte m (a + 6) ++ readByte m (a + 7) : BitVec 64) := by
  apply BitVec.eq_of_toNat_eq
  refine Eq.trans ?_ (append_eight_toNat _ _ _ _ _ _ _ _).symm
  simp only [memRead_succ_toNat, memRead_zero_toNat, Nat.reduceMul, Nat.shiftLeft_zero, Nat.or_zero, Nat.mul_one]

/-- The stream_id word of the header a request names (R21). -/
theorem wordRead_sid (s : State) : wordRead s.mem s.port.buf .sid = s.streamIdWord :=
  memRead_eight _ _

/-- Word A of the header a request names (R22). -/
theorem wordRead_a (s : State) : wordRead s.mem s.port.buf .a = s.wordA :=
  memRead_four _ _

/-- Word B of the header a request names (R23). -/
theorem wordRead_b (s : State) : wordRead s.mem s.port.buf .b = s.wordB :=
  memRead_eight _ _

end Sys2Proof.Machine
end

