-- ==== Sys2Proof/Tests/Slice0.lean ====
section
/-! SUPPORT. The model's own tests: ill-formed terms, command words written out from the spec's encoding, single
steps of the spec's test vectors (spec/95_test_vectors.md), and a witness for the hypotheses of every statement. -/

namespace Sys2Proof.Tests

open Sys2Proof.Machine

/-! ## Helpers -/

/-- The memory in which header instance `b` holds `bytes` from `H[0]` on. -/
def headerFrom (b k : Nat) (bytes : List Byte) : Memory :=
  match bytes with
  | [] => []
  | v :: rest => writeByte (headerFrom b (k + 1) rest) (headerAddr b k) v

/-- A state with header instance 0 holding `bytes` and a request on the port with both presence inputs 1. -/
def stateOf (bytes : List Byte) (wdata : Value) : State :=
  { State.resetWith (headerFrom 0 0 bytes) 0 with
    port := { cmd := 0, wdata := wdata, hdrPresent := true, outPresent := true, buf := 0 } }

/-- The same without a header. -/
def noHdr (s : State) : State := { s with port := { s.port with hdrPresent := false } }

/-- The same without a result taker. -/
def noOut (s : State) : State := { s with port := { s.port with outPresent := false } }

/-- The same with the collaborator's answer. -/
def collab (s : State) (st : Status) : State := { s with collabAnswer := st }

/-- 20 bytes of 0xFF. -/
def allFF : List Byte := List.replicate 20 0xFF

/-- The header of vector T3.3. -/
def header33 : List Byte :=
  [0xAA, 0xBB, 0xCC, 0xDD, 0xEE, 0xFF, 0x00, 0x11, 0x00, 0x83, 0xC8, 0x00, 0x00, 0x30, 0x00, 0x01, 0x07, 0x00, 0x00,
    0xA0]

/-- The status a transaction ends with. -/
def statusOf (o : Host.Outcome State Fault Refusal) : Option (BitVec 2) :=
  match o with
  | .next s => s.response.map (·.status)
  | .fault _ => none
  | .refused _ => none

/-- The response of a transaction. -/
def responseOf (o : Host.Outcome State Fault Refusal) : Option Response :=
  match o with
  | .next s => s.response
  | .fault _ => none
  | .refused _ => none

/-- The 20 bytes of header instance 0 after a transaction. -/
def headerOf (o : Host.Outcome State Fault Refusal) : List Byte :=
  match o with
  | .next s => (List.range 20).map (headerByte s.mem 0)
  | .fault _ => []
  | .refused _ => []

/-- Word A after a transaction. -/
def wordAOf (o : Host.Outcome State Fault Refusal) : Option (BitVec 32) :=
  match o with
  | .next s => some s.wordA
  | .fault _ => none
  | .refused _ => none

/-- Word B after a transaction. -/
def wordBOf (o : Host.Outcome State Fault Refusal) : Option (BitVec 64) :=
  match o with
  | .next s => some s.wordB
  | .fault _ => none
  | .refused _ => none

/-! ## Well-formedness: a GET or SET of an unrecognised field has FIELD 12 to 15 (R24, R78) -/

theorem test_illformed_get_refused : Instr.wellFormed (.getUnrecognised 11) = false := by decide
theorem test_illformed_set_refused : Instr.wellFormed (.setUnrecognised 0) = false := by decide
theorem test_wellformed_edges :
    Instr.wellFormed (.getUnrecognised 12) = true ∧ Instr.wellFormed (.setUnrecognised 15) = true := by decide

/-! ## Decoding: words written out from R71 to R73 as OP bits and FIELD bits -/

theorem test_decode_get_words :
    [0b000000, 0b000001, 0b000010, 0b000011, 0b000100, 0b000101, 0b000110, 0b000111, 0b001000, 0b001001, 0b001010,
      0b001011, 0b001100, 0b001111].map decodeCmd =
    [Instr.getStreamId, .getSv, .getMr, .getFs, .getTv, .getTu, .getSeqNum, .getType, .getBaseFreq, .getCrfDataLen,
      .getTimestampInterval, .getPull, .getUnrecognised 12, .getUnrecognised 15] := by decide

theorem test_decode_set_words :
    [0b010000, 0b010001, 0b010010, 0b010011, 0b010100, 0b010101, 0b010110, 0b010111, 0b011000, 0b011001, 0b011010,
      0b011011, 0b011100, 0b011111].map decodeCmd =
    [Instr.setStreamId, .setSv, .setMr, .setFs, .setTv, .setTu, .setSeqNum, .setType, .setBaseFreq, .setCrfDataLen,
      .setTimestampInterval, .setPull, .setUnrecognised 12, .setUnrecognised 15] := by decide

theorem test_decode_init_and_reserved_words :
    [0b100000, 0b101111, 0b110000, 0b111111].map decodeCmd =
    [Instr.init 0, .init 15, .rsv 0, .rsv 15] := by decide

theorem test_decode_table_word : decodeTableWord 8 0x16 = some .setSeqNum ∧ decodeTableWord 8 0x40 = none := by decide

/-! ## The bit accessor (vectors T1) -/

theorem test_extract_seq_num : extractBits (0x0083C800 : BitVec 32) 0x0000FF00 8 = 200 := by decide
theorem test_insert_keeps_unassigned : insertBits (0xFF7400FE : BitVec 32) 0xAB 0x0000FF00 8 = 0xFF74ABFE := by decide
theorem test_mem_read_big_endian :
    memRead (headerFrom 0 0 [0x01, 0x23, 0x45, 0x67, 0x89, 0xAB, 0xCD, 0xEF]) 0 8 = (0x0123456789ABCDEF : BitVec 64) := by
  decide
theorem test_fits_edges :
    fits .seqNum 255 = true ∧ fits .seqNum 256 = false ∧ fits .sv 1 = true ∧ fits .sv 2 = false ∧
    fits .streamId 0xFFFFFFFFFFFFFFFF = true := by decide
theorem test_write_of_zero_is_canonical : writeByte [(3, 7), (5, 1)] 3 0 = [(5, 1)] := by decide
theorem test_msb0_of_sv_and_tu : lsb0OfMsb0 32 8 = 23 ∧ lsb0OfMsb0 32 31 = 0 := by decide

/-! ## GET (vectors T3.2, T3.3, T3.4, T3.5) -/

theorem test_get_stream_id :
    responseOf (exec .getStreamId (stateOf header33 0)) = some ⟨0b00, 0xAABBCCDDEEFF0011⟩ := by decide
theorem test_get_sv : responseOf (exec .getSv (stateOf header33 0)) = some ⟨0b00, 1⟩ := by decide
theorem test_get_sv_no_header : statusOf (exec .getSv (noHdr (stateOf header33 0))) = some 0b01 := by decide
theorem test_get_mr : responseOf (exec .getMr (stateOf header33 0)) = some ⟨0b00, 0⟩ := by decide
theorem test_get_fs : responseOf (exec .getFs (stateOf header33 0)) = some ⟨0b00, 1⟩ := by decide
theorem test_get_tv : statusOf (exec .getTv (stateOf header33 0)) = some 0b01 := by decide
theorem test_get_tu : responseOf (exec .getTu (stateOf header33 0)) = some ⟨0b00, 0⟩ := by decide
theorem test_get_tu_ff : responseOf (exec .getTu (stateOf allFF 0)) = some ⟨0b00, 1⟩ := by decide
theorem test_get_seq_num : responseOf (exec .getSeqNum (stateOf header33 0)) = some ⟨0b00, 200⟩ := by decide
theorem test_get_type : responseOf (exec .getType (stateOf header33 0)) = some ⟨0b00, 1⟩ := by decide
theorem test_get_base_freq : responseOf (exec .getBaseFreq (stateOf header33 0)) = some ⟨0b00, 48000⟩ := by decide
theorem test_get_base_freq_ff :
    statusOf (exec .getBaseFreq (stateOf allFF 0)) = some 0b10 ∧
    statusOf (exec .getBaseFreq (noOut (stateOf allFF 0))) = some 0b01 := by decide
theorem test_get_crf_data_len : responseOf (exec .getCrfDataLen (stateOf header33 0)) = some ⟨0b00, 48⟩ := by decide
theorem test_get_timestamp_interval :
    responseOf (exec .getTimestampInterval (stateOf header33 0)) = some ⟨0b00, 160⟩ := by decide
theorem test_get_pull : responseOf (exec .getPull (stateOf allFF 0)) = some ⟨0b00, Config.pullX1⟩ := by rfl
theorem test_get_unrecognised : statusOf (exec (.getUnrecognised 12) (stateOf header33 0)) = some 0b01 := by decide

/-! ## SET (vectors T4, S6, S10) -/

theorem test_set_stream_id :
    (headerOf (exec .setStreamId (stateOf allFF 0x0123456789ABCDEF))).take 9 =
      [0x01, 0x23, 0x45, 0x67, 0x89, 0xAB, 0xCD, 0xEF, 0xFF] := by decide
theorem test_set_sv_clear : wordAOf (exec .setSv (stateOf allFF 0)) = some 0xFF7FFFFF := by decide
theorem test_set_sv_two :
    statusOf (exec .setSv (stateOf allFF 2)) = some 0b10 ∧ headerOf (exec .setSv (stateOf allFF 2)) = allFF := by decide
theorem test_set_mr : wordAOf (exec .setMr (stateOf [] 1)) = some 0x00080000 := by decide
theorem test_set_mr_clear : wordAOf (exec .setMr (stateOf allFF 0)) = some 0xFFF7FFFF := by decide
theorem test_set_fs : wordAOf (exec .setFs (stateOf [] 1)) = some 0x00020000 := by decide
theorem test_set_tv : wordAOf (exec .setTv (stateOf allFF 0)) = some 0xFFFEFFFF := by decide
theorem test_set_tu : wordAOf (exec .setTu (stateOf [] 1)) = some 0x00000001 := by decide
theorem test_set_seq_num : wordAOf (exec .setSeqNum (stateOf allFF 0)) = some 0xFFFF00FF := by decide
theorem test_set_seq_num_256 :
    statusOf (exec .setSeqNum (stateOf header33 256)) = some 0b10 ∧
    headerOf (exec .setSeqNum (stateOf header33 256)) = header33 := by decide
theorem test_set_type : wordBOf (exec .setType (stateOf allFF 0)) = some 0xFFFF0000FFFFFFFF := by decide
theorem test_set_base_freq : wordBOf (exec .setBaseFreq (stateOf [] 96000)) = some 0x000000000A000000 := by decide
theorem test_set_base_freq_high_bit :
    statusOf (exec .setBaseFreq (stateOf header33 0x10000BB80)) = some 0b10 ∧
    headerOf (exec .setBaseFreq (stateOf header33 0x10000BB80)) = header33 := by decide
theorem test_set_crf_data_len : wordBOf (exec .setCrfDataLen (stateOf [] 0xFFFF)) = some 0xFFFF000000000000 := by decide
theorem test_set_timestamp_interval :
    wordBOf (exec .setTimestampInterval (stateOf allFF 0)) = some 0xFFFFFFFFFFFF0000 := by decide
theorem test_set_unrecognised :
    statusOf (exec (.setUnrecognised 13) (stateOf header33 0)) = some 0b01 ∧
    headerOf (exec (.setUnrecognised 13) (stateOf header33 0)) = header33 := by decide
theorem test_set_sv_two_no_header : statusOf (exec .setSv (noHdr (stateOf header33 2))) = some 0b01 := by decide

/-! ## INIT and the reserved OP (vectors T5, T6) -/

theorem test_init_ok :
    headerOf (exec (.init 15) (stateOf allFF 0)) =
      [0, 0, 0, 0, 0, 0, 0, 0, 0, 0x81, 0, 0, 0, 0, 0, 0, 0, 0, 0, 0] := by decide
theorem test_init_collaborator_error :
    statusOf (exec (.init 0) (collab (stateOf allFF 0) (.error .invalidValue))) = some 0b10 ∧
    headerOf (exec (.init 0) (collab (stateOf allFF 0) (.error .invalidValue))) = List.replicate 20 0 := by decide
theorem test_init_no_header :
    statusOf (exec (.init 0) (noHdr (stateOf allFF 0))) = some 0b01 ∧
    headerOf (exec (.init 0) (noHdr (stateOf allFF 0))) = allFF := by decide
theorem test_reserved :
    statusOf (exec (.rsv 15) (noHdr (stateOf header33 0))) = some 0b01 ∧
    headerOf (exec (.rsv 15) (noHdr (stateOf header33 0))) = header33 := by decide

/-! ## One step, and the assembly notation -/

theorem test_step_runs_fetch_word : headerOf (step (State.reset.withFetchWord 8 0x20)) =
    [0, 0, 0, 0, 0, 0, 0, 0, 0, 0x81, 0, 0, 0, 0, 0, 0, 0, 0, 0, 0] := by decide
theorem test_assemble_set : (assemble "SET BASE_FREQ, 48000").map (·.request 0) =
    some ⟨0x18, 48000, true, true, 0⟩ := by decide
theorem test_assemble_hex_and_suffix :
    assemble "SET STREAM_ID, 0xAABBCCDDEEFF0011" = some ⟨.set 0 0xAABBCCDDEEFF0011, false, false⟩ ∧
    assemble "GET F12 !noout" = some ⟨.get 12, false, true⟩ ∧ assemble "SET SV, 1 !noout" = none := by decide

/-! ## Witnesses: a state or operands that meet the hypotheses of each statement, clause by clause -/

theorem witness_exactly_one_instruction :
    Instr.wellFormed (.getUnrecognised 12) = true ∧ encode (.getUnrecognised 12) = 0x0C ∧
    decode [0x0C, 0xFF] = .ok (.getUnrecognised 12, [0xFF]) := ⟨by decide, by decide, rfl⟩
theorem witness_decode_of_encode : Instr.wellFormed (.setUnrecognised 15) = true := by decide
theorem witness_bytes_beyond : 64 ≤ (0x40 : Byte).toNat ∧ 64 ≤ (0xFF : Byte).toNat := by decide
theorem witness_mem_read_and_write : 0 < 8 ∧ 7 < 8 ∧ (99 < 100 ∨ 100 + 8 ≤ 99) ∧ (108 < 100 ∨ 100 + 8 ≤ 108) := by decide
theorem witness_extract_and_insert :
    16 + 48 ≤ 64 ∧ 64 + 0 ≤ 64 ∧ (0xFFFF : BitVec 64).toNat < 2 ^ 16 ∧
    (ones 64 16 <<< 48) &&& (ones 64 16 <<< 32) = 0 := by decide
theorem witness_field_masks : Field.crfDataLen ≠ .type ∧ Field.sel .crfDataLen = Field.sel .type := by decide
theorem witness_field_code_lookup : desc 12 = .unknown ∧ desc 15 = .unknown ∧ desc 11 = .virtual := by decide
theorem witness_range_check :
    Field.isTranslated .seqNum = false ∧ (stateOf [] 256).port.hdrPresent = true ∧
    fits .seqNum (stateOf [] 256).port.wdata = false := by decide

/-- Two headers that differ in unassigned bits only. -/
theorem witness_unassigned_bits_get :
    Instr.op .getSv = 0b00 ∧ (stateOf [] 0).port = (stateOf [0, 0, 0, 0, 0, 0, 0, 0, 0xFF] 0).port ∧
    (stateOf [] 0).streamIdWord = (stateOf [0, 0, 0, 0, 0, 0, 0, 0, 0xFF] 0).streamIdWord ∧
    (stateOf [] 0).wordA &&& ~~~unassignedA = (stateOf [0, 0, 0, 0, 0, 0, 0, 0, 0xFF] 0).wordA &&& ~~~unassignedA ∧
    (stateOf [] 0).wordB &&& ~~~unassignedB = (stateOf [0, 0, 0, 0, 0, 0, 0, 0, 0xFF] 0).wordB &&& ~~~unassignedB := by
  decide
theorem witness_unassigned_bits_set_and_init :
    Instr.op .setSv = 0b01 ∧ (stateOf allFF 0).port.hdrPresent = true := by decide
theorem witness_translator_decode :
    11 ≤ (11 : Byte).toNat ∧ 11 ≤ (255 : Byte).toNat ∧ freqRom[(0 : Byte).toNat]? = some 0 ∧
    freqRom[(10 : Byte).toNat]? = some 96000 := by decide
theorem witness_translator_encode :
    (∀ hz ∈ freqRom, (96001 : Value).toNat ≠ hz) ∧ (∀ hz ∈ freqRom, (0x10000BB80 : Value).toNat ≠ hz) := by decide
theorem witness_translator_round_trips : 96000 ∈ freqRom ∧ (10 : Byte).toNat < 11 := by decide

/-- For every GET rule: both inputs present, no header, no result taker. -/
theorem witness_get_rules :
    ((stateOf header33 0).port.hdrPresent = true ∧ (stateOf header33 0).port.outPresent = true) ∧
    (noHdr (stateOf header33 0)).port.hdrPresent = false ∧ (noOut (stateOf header33 0)).port.outPresent = false := by
  decide
theorem witness_get_base_freq :
    freqRom[((stateOf [0, 0, 0, 0, 0, 0, 0, 0, 0, 0, 0, 0, 0, 0, 0, 0, 10] 0).hdr 16).toNat]? = some 96000 ∧
    11 ≤ ((stateOf [0, 0, 0, 0, 0, 0, 0, 0, 0, 0, 0, 0, 0, 0, 0, 0, 11] 0).hdr 16).toNat ∧
    (stateOf [0, 0, 0, 0, 0, 0, 0, 0, 0, 0, 0, 0, 0, 0, 0, 0, 11] 0).port.hdrPresent = true ∧
    (stateOf [0, 0, 0, 0, 0, 0, 0, 0, 0, 0, 0, 0, 0, 0, 0, 0, 11] 0).port.outPresent = true := by decide
theorem witness_unrecognised_fields : 12 ≤ (12 : FieldCode).toNat ∧ 12 ≤ (15 : FieldCode).toNat := by decide
theorem witness_every_get : Instr.op .getTv = 0b00 ∧ Instr.op (.getUnrecognised 12) = 0b00 := by decide

/-- For every SET rule: a header with the largest accepted value, a header with the next value, no header. -/
theorem witness_set_rules :
    (stateOf [] 1).port.hdrPresent = true ∧ (stateOf [] 1).port.wdata.toNat < 2 ∧
    ¬ (stateOf [] 2).port.wdata.toNat < 2 ∧
    (stateOf [] 255).port.wdata.toNat < 256 ∧ ¬ (stateOf [] 256).port.wdata.toNat < 256 ∧
    (stateOf [] 65535).port.wdata.toNat < 65536 ∧ ¬ (stateOf [] 65536).port.wdata.toNat < 65536 ∧
    (stateOf [] 96000).port.wdata ∈ tableRates ∧ (stateOf [] 96001).port.wdata ∉ tableRates ∧
    (noHdr (stateOf [] 0)).port.hdrPresent = false := by decide
theorem witness_set_pull :
    (stateOf [] Config.pullX1).port.hdrPresent = true ∧ (stateOf [] Config.pullX1).port.wdata = Config.pullX1 ∧
    (stateOf [] (~~~Config.pullX1)).port.wdata ≠ Config.pullX1 := by
  refine ⟨rfl, rfl, ?_⟩
  intro h
  have h' : (~~~Config.pullX1).getLsbD 0 = Config.pullX1.getLsbD 0 := congrArg (BitVec.getLsbD · 0) h
  simp at h'

/-- INIT: no header; a header with each error of the collaborator; a header with its OK. -/
theorem witness_init :
    (noHdr (stateOf allFF 0)).port.hdrPresent = false ∧ (stateOf allFF 0).port.hdrPresent = true ∧
    (collab (stateOf allFF 0) (.error .invalidArgument)).collabAnswer = .error .invalidArgument ∧
    (collab (stateOf allFF 0) (.error .invalidValue)).collabAnswer = .error .invalidValue ∧
    (stateOf allFF 0).collabAnswer = .ok := by decide
theorem witness_init_defaults :
    (⟨0x01, 0, true, true, 0⟩ : Request).buf = (stateOf allFF 0).port.buf ∧
    (⟨0x01, 0, true, true, 0⟩ : Request).hdrPresent = true ∧ (⟨0x01, 0, true, true, 0⟩ : Request).outPresent = true := by
  decide
theorem witness_init_fails :
    (noHdr (stateOf allFF 0)).port.hdrPresent = false ∧ (stateOf allFF 0).collabAnswer = .ok ∧
    statusOf (exec (.init 0) (noHdr (stateOf allFF 0))) ≠ some 0b00 ∧
    statusOf (exec (.init 0) (collab (stateOf allFF 0) (.error .invalidArgument))) = some 0b01 := by decide
theorem witness_first_error :
    (statusOf (exec .setSv (stateOf [] 2)) = some 0b10 ∧ isInit .setSv = false) ∧
    (statusOf (exec (.init 3) (collab (stateOf allFF 0) (.error .invalidValue))) = some 0b10 ∧
      isInit (.init 3) = true ∧ (collab (stateOf allFF 0) (.error .invalidValue)).port.hdrPresent = true) ∧
    (statusOf (exec (.init 3) (noHdr (stateOf allFF 0))) = some 0b01 ∧
      (noHdr (stateOf allFF 0)).port.hdrPresent = false) := by decide
theorem witness_only_init_tags :
    isInit .getSv = false ∧ isInit (.init 0) = true ∧ (stateOf [] 0).port.hdrPresent = true ∧
    (stateOf [] 0).collabAnswer = .ok ∧ (noHdr (stateOf [] 0)).port.hdrPresent = false := by decide

/-- A request `SET SEQ_NUM, 200` on header instance `b` with the duty `d`. -/
def request (b : Nat) (d : HostDuty) (present : Bool) : Stimulus :=
  { request := { cmd := 0x16, wdata := 200, hdrPresent := present, outPresent := true, buf := b }
    collab := .ok
    duty := d }

theorem witness_step_runs :
    ({ State.reset with pending := [request 0 .kept true] } : State).pending = request 0 .kept true :: [] ∧
    (request 0 .kept true).duty = .kept ∧
    decode [(request 0 .kept true).request.cmd.setWidth 8] = .ok (.setSeqNum, []) := ⟨rfl, rfl, rfl⟩
theorem witness_step_waits : State.reset.pending = [] := rfl
theorem witness_broken_duty :
    ((request 0 .overlapped true).request.hdrPresent = true ∧ (request 0 .overlapped true).duty = .overlapped) ∧
    ((request 0 .bufferMoved true).request.hdrPresent = true ∧ (request 0 .bufferMoved true).duty = .bufferMoved) ∧
    (request 0 .overlapped false).request.hdrPresent = false := by decide
theorem test_step_stops_on_overlap :
    (match step { State.reset with pending := [request 0 .overlapped true] } with
      | .fault f => some f
      | .next _ => none
      | .refused _ => none) = some .overlappingTransaction := by decide
theorem witness_step_keeps_invariant :
    Memory.wf ({ State.reset with pending := [request 0 .kept true] } : State).mem = true ∧
    ({ State.reset with pending := [request 0 .kept true] } : State).statusLegal = true ∧
    headerByte (match step { State.reset with pending := [request 0 .kept true] } with
      | .next t => t.mem
      | .fault _ => []
      | .refused _ => []) 0 10 = 200 := by decide
theorem witness_reset_memory : Memory.wf [(9, 0x81), (10, 0xC8)] = true ∧ Memory.wf [(9, 0x81), (10, 0)] = false := by
  decide
theorem witness_other_headers :
    (1 : Nat) ≠ (stateOf [] 0).port.buf ∧ 19 < 20 ∧
    (∀ k, k < 20 → headerAddr 1 0 ≠ headerAddr (stateOf [] 0).port.buf k) := by decide

/-- Two states that differ in another header, the tag and the response, but not in the header named. -/
theorem witness_result_depends :
    (stateOf header33 0).port = ({ stateOf header33 0 with mem := writeByte (stateOf header33 0).mem 20 7, collabTag := 9 } : State).port ∧
    (isInit (.init 0) = true → (stateOf header33 0).collabAnswer = .ok) ∧
    (∀ k, k < 20 → (stateOf header33 0).hdr k =
      ({ stateOf header33 0 with mem := writeByte (stateOf header33 0).mem 20 7, collabTag := 9 } : State).hdr k) := by decide
theorem witness_different_headers :
    (request 0 .kept true).request.buf ≠ (request 1 .kept true).request.buf := by decide
theorem witness_get_after_set :
    statusOf (exec (Field.setter .seqNum) (stateOf [] 255)) = some 0b00 ∧ Field.seqNum ≠ .tv ∧
    Field.sv ≠ .seqNum ∧ (⟨0x06, 0, true, true, 0⟩ : Request).buf = (stateOf [] 255).port.buf ∧
    (⟨0x06, 0, true, true, 0⟩ : Request).hdrPresent = true ∧ (⟨0x06, 0, true, true, 0⟩ : Request).outPresent = true := by
  decide
theorem witness_repeated :
    Instr.op .getBaseFreq = 0b00 ∧ Instr.op .setBaseFreq = 0b01 ∧ (stateOf allFF 0).collabAnswer = .ok := by decide
theorem witness_issued_transactions :
    ∀ x ∈ ({ State.reset with pending := [request 0 .kept true, request 1 .kept true] } : State).pending, x.duty = .kept := by
  decide

end Sys2Proof.Tests
end

section
/-! The decoder on a command word, the step on a request whose duties are kept, and the obligation about both. -/

namespace Sys2Proof

/-- The last row of the GET part of the opcode map is left for FIELD 12 to 15 only (R78). -/
theorem decodeGet_wellFormed (field : FieldCode) : (decodeGet field).wellFormed = true := by
  unfold decodeGet
  split
  case h_13 =>
    have : 12 ≤ field.toNat := by
      simp only [imp_false] at *
      omega
    exact decide_eq_true this
  all_goals rfl

/-- The last row of the SET part of the opcode map is left for FIELD 12 to 15 only (R78). -/
theorem decodeSet_wellFormed (field : FieldCode) : (decodeSet field).wellFormed = true := by
  unfold decodeSet
  split
  case h_13 =>
    have : 12 ≤ field.toNat := by
      simp only [imp_false] at *
      omega
    exact decide_eq_true this
  all_goals rfl

/-- Every command word decodes to an instruction of the opcode map (R81). -/
theorem decodeCmd_wellFormed (c : Cmd) : (decodeCmd c).wellFormed = true := by
  unfold decodeCmd
  split
  · exact decodeGet_wellFormed _
  · exact decodeSet_wellFormed _
  · rfl
  · rfl

/-- The byte form of a command word (notes/assumptions/12.md) decodes to the instruction of the word. -/
theorem decode_setWidth_cons (c : Cmd) (tail : List Byte) :
    decode (c.setWidth 8 :: tail) = .ok (decodeCmd c, tail) := by
  have hlt : (c.setWidth 8).toNat < 64 := by
    rw [BitVec.toNat_setWidth_of_le (by decide)]
    exact c.isLt
  have hback : (c.setWidth 8).setWidth 6 = c := by
    rw [BitVec.setWidth_setWidth_of_le c (by decide), BitVec.setWidth_eq]
  simp only [decode, if_pos hlt, hback]

end Sys2Proof

namespace Sys2Proof.Machine

theorem Stimulus.brokenDuty_of_kept {x : Stimulus} (h : x.duty = .kept) : x.brokenDuty = none := by
  unfold Stimulus.brokenDuty
  split
  · rw [h]
  · rfl

/-- A step on a request that breaks no duty performs the whole decoded transaction (R9, R64). -/
theorem step_of_pending {s : State} {x : Stimulus} {rest : List Stimulus} (hp : s.pending = x :: rest)
    (hd : x.brokenDuty = none) : step s = exec (decodeCmd x.request.cmd) (s.accept x rest) := by
  have hnext : s.nextRequest = .run (decodeCmd x.request.cmd) (s.accept x rest) := by
    simp only [State.nextRequest, hp, hd]
  simp only [step, hnext]

/-- Settles O37: the decoder's answer is `decodeCmd` of the command word, which is the instruction the step runs. -/
theorem stepRunsTheDecodedInstruction : Obligations.StepRunsTheDecodedInstruction := by
  intro s x rest i bytes hp hkept hdec
  obtain ⟨rfl, rfl⟩ : decodeCmd x.request.cmd = i ∧ [] = bytes := by
    simpa only [decode_setWidth_cons, Except.ok.injEq, Prod.mk.injEq] using hdec
  exact ⟨decodeCmd_wellFormed _, rfl, step_of_pending hp (Stimulus.brokenDuty_of_kept hkept)⟩

end Sys2Proof.Machine
end

section
/-! What each instruction performs, and what each transaction leaves unchanged. -/

namespace Sys2Proof.Machine

/-! ## The transaction of an instruction -/

/-- A GET of a code without a GET raises, as R143 says of the unrecognised rows. -/
theorem getField_unrecognised (s : State) : getField 12 s = s.raise .invalidArgument := by
  have : getResult 12 s = .error .invalidArgument := by
    unfold getResult
    split <;> rfl
  simp only [getField, this]

/-- A SET of a code that names no field raises, as R163 says of the unrecognised rows. -/
theorem setField_unrecognised (s : State) : setField 12 s = s.raise .invalidArgument := by
  have : setResult 12 s.port.wdata s = .error .invalidArgument := by
    unfold setResult
    split <;> rfl
  simp only [setField, this]

/-- Every instruction performs, in every state, one of the four transactions of the OP bits (R72). -/
theorem exec_cases (i : Instr) :
    (i.op = 0b00 ∧ isInit i = false ∧ ∃ code, ∀ s, exec i s = .next (getField code s)) ∨
    (i.op = 0b01 ∧ isInit i = false ∧ ∃ code, ∀ s, exec i s = .next (setField code s)) ∨
    (i.op = 0b10 ∧ isInit i = true ∧ ∀ s, exec i s = .next (initHeader s)) ∨
    (i.op = 0b11 ∧ isInit i = false ∧ ∀ s, exec i s = .next (s.raise .invalidArgument)) := by
  cases i with
  | getStreamId | getSv | getMr | getFs | getTv | getTu | getSeqNum | getType | getBaseFreq | getCrfDataLen
  | getTimestampInterval | getPull => exact .inl ⟨rfl, rfl, _, fun _ => rfl⟩
  | getUnrecognised field =>
    exact .inl ⟨rfl, rfl, 12, fun s => congrArg Host.Outcome.next (getField_unrecognised s).symm⟩
  | setStreamId | setSv | setMr | setFs | setTv | setTu | setSeqNum | setType | setBaseFreq | setCrfDataLen
  | setTimestampInterval | setPull => exact .inr (.inl ⟨rfl, rfl, _, fun _ => rfl⟩)
  | setUnrecognised field =>
    exact .inr (.inl ⟨rfl, rfl, 12, fun s => congrArg Host.Outcome.next (setField_unrecognised s).symm⟩)
  | init field => exact .inr (.inr (.inl ⟨rfl, rfl, fun _ => rfl⟩))
  | rsv field => exact .inr (.inr (.inr ⟨rfl, rfl, fun _ => rfl⟩))

theorem exec_of_op_get {i : Instr} (h : i.op = 0b00) : ∃ code, ∀ s, exec i s = .next (getField code s) := by
  obtain ⟨-, -, hget⟩ | ⟨hop, -⟩ | ⟨hop, -⟩ | ⟨hop, -⟩ := exec_cases i
  · exact hget
  all_goals exact absurd (h.symm.trans hop) (by decide)

theorem exec_of_op_set {i : Instr} (h : i.op = 0b01) : ∃ code, ∀ s, exec i s = .next (setField code s) := by
  obtain ⟨hop, -⟩ | ⟨-, -, hset⟩ | ⟨hop, -⟩ | ⟨hop, -⟩ := exec_cases i
  · exact absurd (h.symm.trans hop) (by decide)
  · exact hset
  all_goals exact absurd (h.symm.trans hop) (by decide)

/-! ## Frames -/

/-- Everything a GET can change: the response and the draw counter (R54, R130). -/
theorem getField_frame (code : FieldCode) (s : State) :
    ∃ r d, getField code s = { s with response := some r, draws := d } := by
  obtain ⟨v, -, h⟩ | ⟨e, -, h⟩ := getField_cases code s
  · exact ⟨_, _, h⟩
  · exact ⟨_, _, h⟩

/-- Everything a SET can change: the header bytes, the response and the draw counter (R54, R150). -/
theorem setField_frame (code : FieldCode) (s : State) :
    ∃ m r d, setField code s = { s with mem := m, response := some r, draws := d } := by
  obtain ⟨m, -, h⟩ | ⟨e, -, h⟩ := setField_cases code s
  · exact ⟨m, _, _, h⟩
  · exact ⟨s.mem, _, _, h⟩

@[simp] theorem getField_mem (code : FieldCode) (s : State) : (getField code s).mem = s.mem := by
  obtain ⟨r, d, h⟩ := getField_frame code s
  rw [h]

@[simp] theorem getField_port (code : FieldCode) (s : State) : (getField code s).port = s.port := by
  obtain ⟨r, d, h⟩ := getField_frame code s
  rw [h]

@[simp] theorem getField_collabTag (code : FieldCode) (s : State) :
    (getField code s).collabTag = s.collabTag := by
  obtain ⟨r, d, h⟩ := getField_frame code s
  rw [h]

@[simp] theorem setField_port (code : FieldCode) (s : State) : (setField code s).port = s.port := by
  obtain ⟨m, r, d, h⟩ := setField_frame code s
  rw [h]

@[simp] theorem setField_collabTag (code : FieldCode) (s : State) :
    (setField code s).collabTag = s.collabTag := by
  obtain ⟨m, r, d, h⟩ := setField_frame code s
  rw [h]

/-- The header bytes after a SET: unchanged, or one `FieldPut` on the request's header (R150). -/
theorem setField_mem_cases (code : FieldCode) (s : State) :
    (setField code s).mem = s.mem ∨ ∃ f w, (setField code s).mem = fieldPut s.mem s.port.buf f w := by
  obtain ⟨m, hm, h⟩ | ⟨e, -, h⟩ := setField_cases code s
  · rw [h]
    exact (setResult_cases hm).2
  · exact .inl (by rw [h, State.raise_mem])

/-- The header bytes after an INIT with a header: the zeroed ones after a failed call of the collaborator, else
those with SV and TV set (R170, R173). -/
theorem initHeader_mem_cases {s : State} (hp : s.port.hdrPresent = true) :
    (initHeader s).mem = zeroBytes s.mem (headerAddr s.port.buf 0) hdrBytes ∨
    (initHeader s).mem =
      fieldPut (fieldPut (zeroBytes s.mem (headerAddr s.port.buf 0) hdrBytes) s.port.buf .sv 1)
        s.port.buf .tv 1 := by
  cases hc : s.collabAnswer with
  | ok => exact .inr (by rw [initHeader_ok s hp hc, State.respondOk_mem])
  | error e => exact .inl (by rw [initHeader_error s hp e hc, State.raise_mem])

@[simp] theorem initHeader_port (s : State) : (initHeader s).port = s.port := by
  cases hp : s.port.hdrPresent with
  | false => rw [initHeader_absent s hp, State.raise_port]
  | true =>
    cases hc : s.collabAnswer with
    | ok => rw [initHeader_ok s hp hc, State.respondOk_port]
    | error e => rw [initHeader_error s hp e hc, State.raise_port]

/-- Settles O36: GET, SET, the reserved OP and an INIT without a header frame the tag; an INIT that the collaborator
answers with OK ends with `SUBTYPE_CRF` there. -/
theorem onlyInitSetsTheSubtypeTag : Obligations.OnlyInitSetsTheSubtypeTag := by
  intro i s
  obtain ⟨-, hi, code, h⟩ | ⟨-, hi, code, h⟩ | ⟨-, hi, h⟩ | ⟨-, hi, h⟩ := exec_cases i
  · exact ⟨_, h s, fun _ => getField_collabTag code s, by simp [hi]⟩
  · exact ⟨_, h s, fun _ => setField_collabTag code s, by simp [hi]⟩
  · refine ⟨_, h s, fun hno => ?_, fun _ hp hc => ?_⟩
    · have hp : s.port.hdrPresent = false := by simpa [hi] using hno
      rw [initHeader_absent s hp, State.raise_collabTag]
    · rw [initHeader_ok s hp hc, State.respondOk_collabTag]
  · exact ⟨_, h s, fun _ => State.raise_collabTag s _, by simp [hi]⟩

/-! ## No byte outside the header named -/

/-- Every container word lies inside the twenty bytes of a header (R20, R100). -/
theorem WordSel.off_add_size_le (sel : WordSel) : sel.off + sel.size ≤ hdrBytes := by
  cases sel <;> decide

/-- A field write leaves every byte outside the twenty of its header as it was (R36). -/
theorem readByte_fieldPut_outside_header (m : Memory) (b : Nat) (f : Field) (v : Value) {x : Nat}
    (h : x < headerAddr b 0 ∨ headerAddr b 0 + hdrBytes ≤ x) : readByte (fieldPut m b f v) x = readByte m x := by
  have := f.sel.off_add_size_le
  apply readByte_fieldPut_outside
  simp only [headerAddr] at h ⊢
  omega

/-- A SET leaves every byte outside the header named as it was (R36). -/
theorem readByte_setField_outside_header (code : FieldCode) (s : State) {x : Nat}
    (h : x < headerAddr s.port.buf 0 ∨ headerAddr s.port.buf 0 + hdrBytes ≤ x) :
    readByte (setField code s).mem x = readByte s.mem x := by
  obtain hm | ⟨f, w, hm⟩ := setField_mem_cases code s
  · rw [hm]
  · rw [hm, readByte_fieldPut_outside_header _ _ _ _ h]

/-- An INIT leaves every byte outside the header named as it was (R36). -/
theorem readByte_initHeader_outside_header (s : State) {x : Nat}
    (h : x < headerAddr s.port.buf 0 ∨ headerAddr s.port.buf 0 + hdrBytes ≤ x) :
    readByte (initHeader s).mem x = readByte s.mem x := by
  have hzero : readByte (zeroBytes s.mem (headerAddr s.port.buf 0) hdrBytes) x = readByte s.mem x := by
    rw [readByte_zeroBytes, if_neg (by omega)]
  cases hp : s.port.hdrPresent with
  | false => rw [initHeader_absent s hp, State.raise_mem]
  | true =>
    obtain hm | hm := initHeader_mem_cases hp
    · rw [hm, hzero]
    · rw [hm, readByte_fieldPut_outside_header _ _ _ _ h, readByte_fieldPut_outside_header _ _ _ _ h, hzero]

/-- An address that is no byte of a header lies below the header or above it. -/
theorem outside_header_of_ne {b x : Nat} (h : ∀ k, k < hdrBytes → x ≠ headerAddr b k) :
    x < headerAddr b 0 ∨ headerAddr b 0 + hdrBytes ≤ x := by
  by_contra hin
  refine h (x - headerAddr b 0) (by omega) ?_
  simp only [headerAddr] at hin ⊢
  omega

/-- Every instruction completes and leaves every byte outside the header named as it was (R36). -/
theorem exec_outside_header (i : Instr) (s : State) :
    ∃ t, exec i s = .next t ∧
      ∀ x, (x < headerAddr s.port.buf 0 ∨ headerAddr s.port.buf 0 + hdrBytes ≤ x) →
        readByte t.mem x = readByte s.mem x := by
  obtain ⟨-, -, code, h⟩ | ⟨-, -, code, h⟩ | ⟨-, -, h⟩ | ⟨-, -, h⟩ := exec_cases i
  · exact ⟨_, h s, fun x _ => by rw [getField_mem]⟩
  · exact ⟨_, h s, fun x => readByte_setField_outside_header code s⟩
  · exact ⟨_, h s, fun x => readByte_initHeader_outside_header s⟩
  · exact ⟨_, h s, fun x _ => by rw [State.raise_mem]⟩

/-- Settles O43: no transaction writes outside its header, and no byte of another header stands inside it. -/
theorem otherHeadersAreUntouched : Obligations.OtherHeadersAreUntouched := by
  intro i s
  obtain ⟨t, ht, hout⟩ := exec_outside_header i s
  refine ⟨t, ht, fun a ha => hout a (outside_header_of_ne ha), fun b k hb hk => ?_⟩
  exact hout _ (outside_header_of_ne fun k' hk' heq => hb (headerAddr_injective hk hk' heq).1)

end Sys2Proof.Machine
end

section
/-! Reading and writing the container words of one header, and what a transaction answers on two states whose
requests and header bytes are the same (R35). -/

namespace Sys2Proof.Machine

/-! ## Reading words -/

/-- A read depends on the bytes of its own range only. -/
theorem memRead_congr {m m' : Memory} (n a : Nat) (h : ∀ x, a ≤ x → x < a + n → readByte m x = readByte m' x) :
    memRead m a n = memRead m' a n := by
  induction n generalizing a with
  | zero => rfl
  | succ k ih =>
    rw [memRead, memRead, h a (by omega) (by omega), ih (a + 1) fun x hlo hhi => h x (by omega) (by omega)]

/-- The twenty bytes of header `b` are the same in two memories. -/
def SameHeader (b : Nat) (m m' : Memory) : Prop :=
  ∀ k, k < hdrBytes → headerByte m b k = headerByte m' b k

theorem wordRead_congr {b : Nat} {m m' : Memory} (h : SameHeader b m m') (sel : WordSel) :
    wordRead m b sel = wordRead m' b sel := by
  apply memRead_congr
  intro x hlo hhi
  obtain ⟨k, rfl⟩ := Nat.exists_eq_add_of_le hlo
  have hsel := sel.off_add_size_le
  simpa only [headerByte, headerAddr, Nat.add_assoc] using h (sel.off + k) (by omega)

theorem fieldGet_congr {b : Nat} {m m' : Memory} {f : Field} (h : wordRead m b f.sel = wordRead m' b f.sel) :
    fieldGet m b f = fieldGet m' b f := by
  rw [fieldGet, fieldGet, h]

/-! ## Writing words -/

/-- What a write leaves at an address depends on memory only through the byte that was there. -/
theorem readByte_memWrite_congr {m m' : Memory} {x : Nat} (n a : Nat) (w : BitVec (8 * n))
    (h : readByte m x = readByte m' x) : readByte (memWrite m a n w) x = readByte (memWrite m' a n w) x := by
  induction n generalizing m m' a with
  | zero => exact h
  | succ k ih =>
    apply ih
    rw [readByte_writeByte, readByte_writeByte, h]

theorem fieldPut_congr {b : Nat} {m m' : Memory} (h : SameHeader b m m') (f : Field) (v : Value) :
    SameHeader b (fieldPut m b f v) (fieldPut m' b f v) := by
  intro k hk
  unfold fieldPut
  rw [wordRead_congr h]
  exact readByte_memWrite_congr _ _ _ (h k hk)

/-- A word reads back as it was written (R101). -/
theorem memRead_memWrite_same (n : Nat) (m : Memory) (a : Nat) (w : BitVec (8 * n)) :
    memRead (memWrite m a n w) a n = w := by
  induction n generalizing m a with
  | zero => exact (BitVec.of_length_zero).trans (BitVec.of_length_zero).symm
  | succ k ih =>
    rw [memRead, memWrite, ih, readByte_memWrite_outside _ _ _ _ _ (.inl (by omega)), readByte_writeByte_same]
    ext j hj
    simp only [BitVec.getElem_cast, BitVec.getElem_append, BitVec.getElem_setWidth, BitVec.getElem_extractLsb']
    split
    · exact BitVec.getLsbD_eq_getElem hj
    · rw [show 8 * k + (j - 8 * k) = j by omega]
      exact BitVec.getLsbD_eq_getElem hj

theorem wordRead_fieldPut_same (m : Memory) (b : Nat) (f : Field) (v : Value) :
    wordRead (fieldPut m b f v) b f.sel =
      insertBits (wordRead m b f.sel) (v.setWidth (8 * f.sel.size)) f.mask f.shift :=
  memRead_memWrite_same _ _ _ _

/-- Two container words share no byte (R100). -/
theorem WordSel.off_disjoint {sel sel' : WordSel} (h : sel ≠ sel') :
    sel.off + sel.size ≤ sel'.off ∨ sel'.off + sel'.size ≤ sel.off := by
  revert h
  cases sel <;> cases sel' <;> decide

theorem wordRead_fieldPut_of_ne (m : Memory) (b : Nat) {f : Field} {sel : WordSel} (v : Value) (h : f.sel ≠ sel) :
    wordRead (fieldPut m b f v) b sel = wordRead m b sel := by
  have hoff := WordSel.off_disjoint h
  apply memRead_congr
  intro x hlo hhi
  apply readByte_fieldPut_outside
  simp only [headerAddr] at hlo hhi ⊢
  omega

/-! ## Zeroing -/

/-- Zero bytes have the value 0. -/
theorem memRead_eq_zero {m : Memory} (n a : Nat) (h : ∀ x, a ≤ x → x < a + n → readByte m x = 0) :
    memRead m a n = 0 := by
  induction n generalizing a with
  | zero => rfl
  | succ k ih =>
    apply BitVec.eq_of_toNat_eq
    rw [memRead_succ_toNat, h a (by omega) (by omega), ih (a + 1) fun x hlo hhi => h x (by omega) (by omega)]
    simp

theorem wordRead_zeroBytes (m : Memory) (b : Nat) (sel : WordSel) :
    wordRead (zeroBytes m (headerAddr b 0) hdrBytes) b sel = 0 := by
  have hsel := sel.off_add_size_le
  apply memRead_eq_zero
  intro x hlo hhi
  rw [readByte_zeroBytes, if_pos]
  simp only [headerAddr] at hlo hhi ⊢
  omega

/-- Zeroed headers have the same bytes. -/
theorem zeroBytes_sameHeader (b : Nat) (m m' : Memory) :
    SameHeader b (zeroBytes m (headerAddr b 0) hdrBytes) (zeroBytes m' (headerAddr b 0) hdrBytes) := by
  intro k hk
  have hin : headerAddr b 0 ≤ headerAddr b k ∧ headerAddr b k < headerAddr b 0 + hdrBytes := by
    simp only [headerAddr]
    omega
  rw [headerByte, headerByte, readByte_zeroBytes, readByte_zeroBytes, if_pos hin, if_pos hin]

/-! ## Answers -/

/-- Outside GET, two responses with the same status tell their requesters the same (R76). -/
theorem sameAnswer_of_op_ne_get {i : Instr} {t u : State} {r q : Response} (hi : i.op ≠ 0b00)
    (ht : t.response = some r) (hu : u.response = some q) (h : r.status = q.status) : SameAnswer i t u :=
  ⟨r, q, ht, hu, h, fun hget => absurd hget hi⟩

/-- Outside GET, two raises of one kind tell their requesters the same and leave the header bytes. -/
theorem raise_congr {i : Instr} {b : Nat} {s u : State} (hi : i.op ≠ 0b00) (e : ErrorKind)
    (h : SameHeader b s.mem u.mem) :
    SameAnswer i (s.raise e) (u.raise e) ∧ SameHeader b (s.raise e).mem (u.raise e).mem :=
  ⟨sameAnswer_of_op_ne_get hi (State.raise_response s e) (State.raise_response u e) rfl, h⟩

/-- Outside GET, two completions with OK tell their requesters the same and leave the header bytes. -/
theorem respondOk_congr {i : Instr} {b : Nat} {s u : State} (hi : i.op ≠ 0b00) (h : SameHeader b s.mem u.mem) :
    SameAnswer i s.respondOk u.respondOk ∧ SameHeader b s.respondOk.mem u.respondOk.mem :=
  ⟨sameAnswer_of_op_ne_get hi s.respondOk_response u.respondOk_response rfl, h⟩

/-! ## GET -/

/-- A GET depends on the request and on what `FieldGet` reads (R130). -/
theorem getResult_congr {s u : State} (code : FieldCode) (hp : s.port = u.port)
    (hf : ∀ f, fieldGet s.mem u.port.buf f = fieldGet u.mem u.port.buf f) :
    getResult code s = getResult code u := by
  simp only [getResult, storedValue, hp, hf]

/-- Two GETs with the same result give their requesters the same answer. -/
theorem getField_sameAnswer {s u : State} {code : FieldCode} (i : Instr) (h : getResult code s = getResult code u) :
    SameAnswer i (getField code s) (getField code u) := by
  obtain ⟨v, hs, hgs⟩ | ⟨e, hs, hgs⟩ := getField_cases code s
  · have hgu : getField code u = u.respondValue v := by simp only [getField, ← h, hs]
    rw [hgs, hgu]
    exact ⟨_, _, rfl, rfl, rfl, fun _ _ => rfl⟩
  · have hgu : getField code u = u.raise e := by simp only [getField, ← h, hs]
    rw [hgs, hgu]
    exact ⟨_, _, rfl, rfl, rfl, fun _ hok => absurd hok e.bits_ne.2⟩

/-! ## SET -/

/-- Two results of a SET that a requester and a reader of header `b` cannot tell apart. -/
inductive SameStore (b : Nat) : Except ErrorKind Memory → Except ErrorKind Memory → Prop where
  | error (e : ErrorKind) : SameStore b (.error e) (.error e)
  | ok {m m' : Memory} (h : SameHeader b m m') : SameStore b (.ok m) (.ok m')

theorem storeValue_congr {b : Nat} {m m' : Memory} (h : SameHeader b m m') (f : Field) (v : Value) :
    SameStore b (storeValue m b f v) (storeValue m' b f v) := by
  unfold storeValue
  split
  · cases freqEncode v with
    | error e => exact .error e
    | ok c => exact .ok (fieldPut_congr h f _)
  · split
    · exact .ok (fieldPut_congr h f v)
    · exact .error _

theorem setResult_congr {s u : State} (code : FieldCode) (v : Value) (hp : s.port = u.port)
    (h : SameHeader u.port.buf s.mem u.mem) : SameStore u.port.buf (setResult code v s) (setResult code v u) := by
  unfold setResult
  rw [hp]
  split
  · exact .error _
  · split
    · exact .error _
    · split
      · exact .ok h
      · exact .error _
    · exact storeValue_congr h _ v

/-- A SET on the same request and the same header bytes ends with the same status and the same header bytes. -/
theorem setField_congr {i : Instr} {s u : State} (code : FieldCode) (hi : i.op = 0b01) (hp : s.port = u.port)
    (h : SameHeader u.port.buf s.mem u.mem) :
    SameAnswer i (setField code s) (setField code u) ∧
      SameHeader u.port.buf (setField code s).mem (setField code u).mem := by
  have hget : i.op ≠ 0b00 := by rw [hi]; decide
  have hstore := setResult_congr code u.port.wdata hp h
  unfold setField
  rw [hp]
  generalize setResult code u.port.wdata s = rs, setResult code u.port.wdata u = ru at hstore
  cases hstore with
  | error e => exact raise_congr hget e h
  | ok hm => exact respondOk_congr hget hm

/-! ## INIT -/

/-- An INIT on the same request, header bytes and answer of the collaborator ends with the same status and the same
header bytes. -/
theorem initHeader_congr {i : Instr} {s u : State} (hi : i.op = 0b10) (hp : s.port = u.port)
    (hc : s.collabAnswer = u.collabAnswer) (h : SameHeader u.port.buf s.mem u.mem) :
    SameAnswer i (initHeader s) (initHeader u) ∧
      SameHeader u.port.buf (initHeader s).mem (initHeader u).mem := by
  have hget : i.op ≠ 0b00 := by rw [hi]; decide
  have hzero := zeroBytes_sameHeader u.port.buf s.mem u.mem
  cases hup : u.port.hdrPresent with
  | false =>
    rw [initHeader_absent s (hp ▸ hup), initHeader_absent u hup]
    exact raise_congr hget _ h
  | true =>
    cases huc : u.collabAnswer with
    | error e =>
      rw [initHeader_error s (hp ▸ hup) e (hc.trans huc), initHeader_error u hup e huc, hp]
      exact raise_congr hget e (by simpa only using hzero)
    | ok =>
      rw [initHeader_ok s (hp ▸ hup) (hc.trans huc), initHeader_ok u hup huc, hp]
      have hflags := fieldPut_congr (fieldPut_congr hzero .sv 1) .tv 1
      exact respondOk_congr hget (by simpa only using hflags)

/-! ## The result of a transaction -/

/-- Settles O44: each transaction reads the request, the header named and, for INIT, the collaborator's answer. -/
theorem resultDependsOnRequestAndHeaderOnly : Obligations.ResultDependsOnRequestAndHeaderOnly := by
  intro i s u hp hc hhdr
  have h : SameHeader u.port.buf s.mem u.mem := fun k hk => by simpa only [State.hdr, hp] using hhdr k hk
  obtain ⟨-, -, code, hx⟩ | ⟨hop, -, code, hx⟩ | ⟨hop, hi, hx⟩ | ⟨hop, -, hx⟩ := exec_cases i <;>
    refine ⟨_, _, hx s, hx u, ?_⟩
  · refine ⟨getField_sameAnswer i (getResult_congr code hp fun f => fieldGet_congr (wordRead_congr h _)), ?_⟩
    simpa only [State.hdr, getField_mem, getField_port] using hhdr
  · obtain ⟨hans, hmem⟩ := setField_congr code hop hp h
    exact ⟨hans, fun k hk => by simpa only [State.hdr, setField_port, hp] using hmem k hk⟩
  · obtain ⟨hans, hmem⟩ := initHeader_congr hop hp (hc hi) h
    exact ⟨hans, fun k hk => by simpa only [State.hdr, initHeader_port, hp] using hmem k hk⟩
  · have hget : i.op ≠ 0b00 := by rw [hop]; decide
    exact ⟨(raise_congr hget _ h).1, hhdr⟩

end Sys2Proof.Machine
end

section
/-! The field descriptor table and the unassigned bits of the container words (R25, R26), and the translator ROM
(R28). -/

namespace Sys2Proof.Machine

/-! ## Masks -/

/-- The rows of the field descriptor table (R24). -/
def allFields : List Field :=
  [.streamId, .sv, .mr, .fs, .tv, .tu, .seqNum, .type, .baseFreq, .crfDataLen, .timestampInterval]

theorem mem_allFields (f : Field) : f ∈ allFields := by
  cases f <;> decide

theorem mask_eq_ones_shiftLeft (f : Field) : f.mask = ones (8 * f.sel.size) f.width <<< f.shift := by
  cases f <;> decide

theorem mask_disjoint {f g : Field} (hne : f ≠ g) (hsel : f.sel = g.sel) : f.mask.toNat &&& g.mask.toNat = 0 := by
  have htable : ∀ f ∈ allFields, ∀ g ∈ allFields, f ≠ g → f.sel = g.sel → f.mask.toNat &&& g.mask.toNat = 0 := by
    decide
  exact htable f (mem_allFields f) g (mem_allFields g) hne hsel

/-- Settles O7, from the eleven rows of the table. -/
theorem fieldMasksAreOnesShiftedAndDisjoint : Obligations.FieldMasksAreOnesShiftedAndDisjoint :=
  ⟨mask_eq_ones_shiftLeft, fun _ _ => mask_disjoint, rfl, rfl, rfl, rfl, rfl, rfl, rfl, rfl, rfl, rfl⟩

/-! ## The translator ROM -/

/-- Settles O12: the ROM is a constant, and the worked values are found by the search in table order. -/
theorem translatorRomHoldsTheTable : Obligations.TranslatorRomHoldsTheTable :=
  ⟨rfl, rfl, rfl, by decide, by decide, rfl, rfl, rfl⟩

/-! ## Unassigned bits -/

/-- The bits of a container word outside every field; STREAM_ID leaves none (R26). -/
def unassigned (sel : WordSel) : BitVec (8 * sel.size) :=
  match sel with
  | .sid => (0 : BitVec 64)
  | .a => unassignedA
  | .b => unassignedB

theorem mask_and_unassigned (f : Field) : f.mask &&& unassigned f.sel = 0 := by
  cases f <;> decide

theorem not_unassigned_and_mask (f : Field) : ~~~unassigned f.sel &&& f.mask = f.mask := by
  cases f <;> decide

theorem unassignedA_getLsbD_iff {k : Nat} (hk : k < 32) :
    unassignedA.getLsbD k = true ↔ ∀ f : Field, f.sel = .a → f.mask.getLsbD k = false := by
  have htable : ∀ k, k < 32 →
      (unassignedA.getLsbD k = true ↔ ∀ f ∈ allFields, f.sel = .a → f.mask.getLsbD k = false) := by decide
  simpa only [mem_allFields, forall_const] using htable k hk

theorem unassignedB_getLsbD_iff {k : Nat} (hk : k < 64) :
    unassignedB.getLsbD k = true ↔ ∀ f : Field, f.sel = .b → f.mask.getLsbD k = false := by
  have htable : ∀ k, k < 64 →
      (unassignedB.getLsbD k = true ↔ ∀ f ∈ allFields, f.sel = .b → f.mask.getLsbD k = false) := by decide
  simpa only [mem_allFields, forall_const] using htable k hk

/-- Extract reads no unassigned bit: words that agree on the assigned bits give the same field value (R26). -/
theorem fieldGet_congr_assigned {b : Nat} {m m' : Memory} {f : Field}
    (h : wordRead m b f.sel &&& ~~~unassigned f.sel = wordRead m' b f.sel &&& ~~~unassigned f.sel) :
    fieldGet m b f = fieldGet m' b f := by
  rw [fieldGet, fieldGet, extractBits, extractBits, ← not_unassigned_and_mask, ← BitVec.and_assoc, h,
    BitVec.and_assoc]

/-- Insert keeps every bit outside the mask (R104). -/
theorem insertBits_and_of_disjoint {n : Nat} (w v mask keep : BitVec n) (shift : Nat) (h : mask &&& keep = 0) :
    insertBits w v mask shift &&& keep = w &&& keep := by
  ext k hk
  have hbit : (mask[k] && keep[k]) = false := by
    simp [← BitVec.getElem_and, h]
  simp only [insertBits, BitVec.getElem_and, BitVec.getElem_or, BitVec.getElem_not]
  cases hm : mask[k] <;> simp_all

/-- A field write keeps the unassigned bits of every word (R26, R103). -/
theorem wordRead_fieldPut_and_unassigned (m : Memory) (b : Nat) (f : Field) (v : Value) (sel : WordSel) :
    wordRead (fieldPut m b f v) b sel &&& unassigned sel = wordRead m b sel &&& unassigned sel := by
  by_cases h : f.sel = sel
  · subst h
    rw [wordRead_fieldPut_same, insertBits_and_of_disjoint _ _ _ _ _ (mask_and_unassigned f)]
  · rw [wordRead_fieldPut_of_ne _ _ _ h]

/-- A SET keeps the unassigned bits of every word of its header (R26). -/
theorem wordRead_setField_and_unassigned (code : FieldCode) (s : State) (sel : WordSel) :
    wordRead (setField code s).mem s.port.buf sel &&& unassigned sel =
      wordRead s.mem s.port.buf sel &&& unassigned sel := by
  obtain hm | ⟨f, w, hm⟩ := setField_mem_cases code s
  · rw [hm]
  · rw [hm, wordRead_fieldPut_and_unassigned]

/-- An INIT with a header clears the unassigned bits of every word: the zeroing does, and the writes of SV and TV keep
them (R26, R170). -/
theorem wordRead_initHeader_and_unassigned {s : State} (hp : s.port.hdrPresent = true) (sel : WordSel) :
    wordRead (initHeader s).mem s.port.buf sel &&& unassigned sel = 0 := by
  obtain hm | hm := initHeader_mem_cases hp
  · simp [hm, wordRead_zeroBytes]
  · simp [hm, wordRead_fieldPut_and_unassigned, wordRead_zeroBytes]

/-- Two states whose words agree on the assigned bits answer every GET the same (R26). -/
theorem getResult_congr_assigned {s u : State} (code : FieldCode) (hp : s.port = u.port)
    (hsid : s.streamIdWord = u.streamIdWord)
    (ha : s.wordA &&& ~~~unassignedA = u.wordA &&& ~~~unassignedA)
    (hb : s.wordB &&& ~~~unassignedB = u.wordB &&& ~~~unassignedB) :
    getResult code s = getResult code u := by
  have hword : ∀ sel, wordRead s.mem u.port.buf sel &&& ~~~unassigned sel =
      wordRead u.mem u.port.buf sel &&& ~~~unassigned sel := by
    rw [← wordRead_sid, ← wordRead_sid, hp] at hsid
    rw [← wordRead_a, ← wordRead_a, hp] at ha
    rw [← wordRead_b, ← wordRead_b, hp] at hb
    intro sel
    cases sel with
    | sid => rw [hsid]
    | a => exact ha
    | b => exact hb
  exact getResult_congr code hp fun f => fieldGet_congr_assigned (hword f.sel)

/-- Settles O11: the masks of a word and its unassigned bits share no bit, so Extract reads none of them and Insert
keeps each. -/
theorem unassignedBitsAreIgnoredKeptAndCleared : Obligations.UnassignedBitsAreIgnoredKeptAndCleared := by
  refine ⟨fun _ => unassignedA_getLsbD_iff, fun _ => unassignedB_getLsbD_iff, by decide, ?_, ?_, ?_⟩
  · intro i s u hi hp hsid ha hb
    obtain ⟨code, hx⟩ := exec_of_op_get hi
    exact ⟨_, _, hx s, hx u, getField_sameAnswer i (getResult_congr_assigned code hp hsid ha hb)⟩
  · intro i s hi
    obtain ⟨code, hx⟩ := exec_of_op_set hi
    have hkeep := wordRead_setField_and_unassigned code s
    refine ⟨_, hx s, ?_, ?_⟩
    · rw [← wordRead_a, ← wordRead_a, setField_port]
      exact hkeep .a
    · rw [← wordRead_b, ← wordRead_b, setField_port]
      exact hkeep .b
  · intro field s hp
    have hclear := wordRead_initHeader_and_unassigned hp
    refine ⟨_, rfl, ?_, ?_⟩
    · rw [← wordRead_a, initHeader_port]
      exact hclear .a
    · rw [← wordRead_b, initHeader_port]
      exact hclear .b

end Sys2Proof.Machine
end

section
/-! The invariant (R58, R75): every completed transaction keeps memory canonical and answers a legal status. -/

namespace Sys2Proof.Machine

/-- A completed transaction meets the invariant when its memory is canonical: its status is never 0b11 (R75). -/
theorem respond_inv {s : State} (st : Status) (v : Value) (h : Memory.wf s.mem = true) : (s.respond st v).Inv :=
  ⟨h, decide_eq_true st.bits_ne_three⟩

theorem raise_inv {s : State} (e : ErrorKind) (h : Memory.wf s.mem = true) : (s.raise e).Inv :=
  respond_inv (s := s.drawRdata.2) (.error e) _ h

theorem respondOk_inv {s : State} (h : Memory.wf s.mem = true) : s.respondOk.Inv :=
  respond_inv (s := s.drawRdata.2) .ok _ h

theorem getField_inv (code : FieldCode) {s : State} (h : Memory.wf s.mem = true) : (getField code s).Inv := by
  obtain ⟨v, -, hx⟩ | ⟨e, -, hx⟩ := getField_cases code s <;> rw [hx]
  · exact respond_inv .ok v h
  · exact raise_inv e h

/-- An accepted SET leaves the old memory or makes one `FieldPut`, and both are canonical. -/
theorem setResult_wf {code : FieldCode} {v : Value} {s : State} {m : Memory} (hm : setResult code v s = .ok m)
    (h : Memory.wf s.mem = true) : Memory.wf m = true := by
  obtain ⟨-, rfl | ⟨f, w, rfl⟩⟩ := setResult_cases hm
  · exact h
  · exact fieldPut_wf _ _ _ _ h

theorem setField_inv (code : FieldCode) {s : State} (h : Memory.wf s.mem = true) : (setField code s).Inv := by
  obtain ⟨m, hm, hx⟩ | ⟨e, -, hx⟩ := setField_cases code s <;> rw [hx]
  · exact respondOk_inv (setResult_wf hm h)
  · exact raise_inv e h

/-- The collaborator answers OK or one of the error kinds (R30). -/
theorem State.collabAnswer_cases (s : State) : s.collabAnswer = .ok ∨ ∃ e, s.collabAnswer = .error e := by
  cases s.collabAnswer with
  | ok => exact .inl rfl
  | error e => exact .inr ⟨e, rfl⟩

theorem initHeader_inv {s : State} (h : Memory.wf s.mem = true) : (initHeader s).Inv := by
  have hzero := zeroBytes_wf hdrBytes s.mem (headerAddr s.port.buf 0) h
  cases hp : s.port.hdrPresent with
  | false =>
    rw [initHeader_absent s hp]
    exact raise_inv _ h
  | true =>
    obtain hc | ⟨e, hc⟩ := s.collabAnswer_cases
    · rw [initHeader_ok s hp hc]
      have hflags := fieldPut_wf _ s.port.buf .tv 1 (fieldPut_wf _ s.port.buf .sv 1 hzero)
      exact respondOk_inv (by simpa only using hflags)
    · rw [initHeader_error s hp e hc]
      exact raise_inv e (by simpa only using hzero)

/-- Every transaction that begins with canonical memory ends in a state that meets the invariant, whatever response
stood on the ports before it. -/
theorem exec_inv {i : Instr} {s t : State} (hx : exec i s = .next t) (h : Memory.wf s.mem = true) : t.Inv := by
  obtain ⟨-, -, code, hi⟩ | ⟨-, -, code, hi⟩ | ⟨-, -, hi⟩ | ⟨-, -, hi⟩ := exec_cases i <;>
    obtain rfl := Host.Outcome.next.inj ((hi s).symm.trans hx)
  · exact getField_inv code h
  · exact setField_inv code h
  · exact initHeader_inv h
  · exact raise_inv _ h

/-- Settles O40: a step waits, or performs one transaction on the memory it found. -/
theorem everyStepKeepsTheInvariant : Obligations.EveryStepKeepsTheInvariant := by
  intro s t hs h
  obtain ⟨-, rfl⟩ | ⟨x, rest, -, -, hx⟩ := step_cases h
  · exact hs
  · exact exec_inv hx hs.1

end Sys2Proof.Machine
end

section
/-! What no transaction touches: the request port, the collaborator's answer and the pending requests. With it,
progress (R60, R187) and the independence of transactions on different headers (R61). -/

namespace Sys2Proof.Machine

/-! ## The frame of a transaction -/

/-- Everything an INIT can change: the header bytes, the tag, the response and the draw counter (R170). -/
theorem initHeader_frame (s : State) :
    ∃ m tag r d, initHeader s = { s with mem := m, collabTag := tag, response := some r, draws := d } := by
  cases hp : s.port.hdrPresent with
  | false => exact ⟨_, _, _, _, initHeader_absent s hp⟩
  | true =>
    obtain hc | ⟨e, hc⟩ := s.collabAnswer_cases
    · exact ⟨_, _, _, _, (initHeader_ok s hp hc).trans (State.respondOk_eq _)⟩
    · exact ⟨_, _, _, _, (initHeader_error s hp e hc).trans (State.raise_eq _ e)⟩

@[simp] theorem initHeader_collabAnswer (s : State) : (initHeader s).collabAnswer = s.collabAnswer := by
  obtain ⟨m, tag, r, d, h⟩ := initHeader_frame s
  rw [h]

/-- Every instruction completes, with a response, and leaves the request port, the collaborator's answer and the
pending requests as they were (R180, R185). -/
theorem exec_frame (i : Instr) (s : State) :
    ∃ m tag r d, exec i s = .next { s with mem := m, collabTag := tag, response := some r, draws := d } := by
  obtain ⟨-, -, code, hi⟩ | ⟨-, -, code, hi⟩ | ⟨-, -, hi⟩ | ⟨-, -, hi⟩ := exec_cases i
  · obtain ⟨r, d, h⟩ := getField_frame code s
    exact ⟨_, _, r, d, by rw [hi, h]⟩
  · obtain ⟨m, r, d, h⟩ := setField_frame code s
    exact ⟨m, _, r, d, by rw [hi, h]⟩
  · obtain ⟨m, tag, r, d, h⟩ := initHeader_frame s
    exact ⟨m, tag, r, d, by rw [hi, h]⟩
  · exact ⟨_, _, _, _, hi s⟩

theorem exec_port {i : Instr} {s t : State} (h : exec i s = .next t) : t.port = s.port := by
  obtain ⟨m, tag, r, d, hx⟩ := exec_frame i s
  rw [← Host.Outcome.next.inj (hx.symm.trans h)]

theorem exec_pending {i : Instr} {s t : State} (h : exec i s = .next t) : t.pending = s.pending := by
  obtain ⟨m, tag, r, d, hx⟩ := exec_frame i s
  rw [← Host.Outcome.next.inj (hx.symm.trans h)]

/-! ## Progress -/

/-- A run begins with the step of its first state. -/
theorem run_succ_of_step {s t : State} (n : Nat) (h : step s = .next t) :
    Host.Core.run Sys2Proof.core (n + 1) s = Host.Core.run Sys2Proof.core n t := by
  have hcore : Sys2Proof.core.step s = .next t := h
  simp only [Host.Core.run, hcore]

/-- A request whose duties are kept completes in one step, which leaves the requests behind it. -/
theorem step_completes {s : State} {x : Stimulus} {rest : List Stimulus} (hp : s.pending = x :: rest)
    (hd : x.duty = .kept) : ∃ t, step s = .next t ∧ t.pending = rest := by
  obtain ⟨m, tag, r, d, hx⟩ := exec_frame (decodeCmd x.request.cmd) (s.accept x rest)
  exact ⟨_, (step_of_pending hp (Stimulus.brokenDuty_of_kept hd)).trans hx, rfl⟩

/-- Settles O48, by induction on the pending requests: each step completes the oldest one. -/
theorem everyIssuedTransactionCompletes : Obligations.EveryIssuedTransactionCompletes := by
  intro s
  generalize hp : s.pending = requests
  induction requests generalizing s with
  | nil => exact fun _ => ⟨s, rfl, hp⟩
  | cons x rest ih =>
    intro hkept
    obtain ⟨t, hstep, ht⟩ := step_completes hp (hkept x List.mem_cons_self)
    obtain ⟨u, hrun, hu⟩ := ih t ht fun y hy => hkept y (List.mem_cons_of_mem x hy)
    exact ⟨u, (run_succ_of_step rest.length hstep).trans hrun, hu⟩

/-! ## Broken duties -/

/-- A step on a request that breaks a duty stops with the fault that names it (R56, R192). -/
theorem step_of_brokenDuty {s : State} {x : Stimulus} {rest : List Stimulus} {f : Fault}
    (hp : s.pending = x :: rest) (hd : x.brokenDuty = some f) : step s = .fault f := by
  have hnext : s.nextRequest = .stuck f := by
    simp only [State.nextRequest, hp, hd]
  simp only [step, hnext]

/-- Settles O39, from the duty each of the three kinds of request breaks. -/
theorem stepStopsOnABrokenHostDuty : Obligations.StepStopsOnABrokenHostDuty := by
  intro s x rest hp
  refine ⟨fun hhdr hduty => step_of_brokenDuty hp ?_, fun hhdr hduty => step_of_brokenDuty hp ?_,
    fun hno => step_of_pending hp ?_⟩
  · simp [Stimulus.brokenDuty, hhdr, hduty]
  · simp [Stimulus.brokenDuty, hhdr, hduty]
  · simp [Stimulus.brokenDuty, hno]

/-! ## Transactions on different headers -/

/-- An address is a byte of header `b`, or it lies below or above the header. -/
theorem header_or_outside (b a : Nat) :
    (∃ k, k < hdrBytes ∧ a = headerAddr b k) ∨ (a < headerAddr b 0 ∨ headerAddr b 0 + hdrBytes ≤ a) := by
  by_cases h : ∃ k, k < hdrBytes ∧ a = headerAddr b k
  · exact .inl h
  · exact .inr (outside_header_of_ne fun k hk heq => h ⟨k, hk, heq⟩)

/-- A byte of one header stands outside every other header. -/
theorem headerAddr_outside {b b' k : Nat} (hne : b ≠ b') (hk : k < hdrBytes) :
    headerAddr b k < headerAddr b' 0 ∨ headerAddr b' 0 + hdrBytes ≤ headerAddr b k :=
  outside_header_of_ne fun _ hk' heq => hne (headerAddr_injective hk hk' heq).1

/-- The whole transaction of the request `x` on `s`, with no other request pending. -/
def State.perform (s : State) (x : Stimulus) : Host.Outcome State Fault Refusal :=
  exec (decodeCmd x.request.cmd) (s.accept x [])

theorem perform_completes (s : State) (x : Stimulus) : ∃ t, s.perform x = .next t := by
  obtain ⟨m, tag, r, d, hx⟩ := exec_frame (decodeCmd x.request.cmd) (s.accept x [])
  exact ⟨_, hx⟩

/-- A transaction leaves every byte outside the header it names (R36). -/
theorem perform_outside {s t : State} {x : Stimulus} (h : s.perform x = .next t) {a : Nat}
    (ha : a < headerAddr x.request.buf 0 ∨ headerAddr x.request.buf 0 + hdrBytes ≤ a) :
    readByte t.mem a = readByte s.mem a := by
  obtain ⟨t', hx, hout⟩ := exec_outside_header (decodeCmd x.request.cmd) (s.accept x [])
  obtain rfl := Host.Outcome.next.inj (hx.symm.trans h)
  exact hout a ha

/-- A transaction leaves the bytes of every header it does not name (R36). -/
theorem perform_sameHeader_of_ne {s t : State} {x : Stimulus} (h : s.perform x = .next t) {b : Nat}
    (hb : b ≠ x.request.buf) : SameHeader b t.mem s.mem :=
  fun _ hk => perform_outside h (headerAddr_outside hb hk)

/-- The same request on the same header bytes gets the same answer and leaves the same header bytes (R35). -/
theorem perform_congr {s u t v : State} {x : Stimulus} (hs : s.perform x = .next t) (hu : u.perform x = .next v)
    (h : SameHeader x.request.buf s.mem u.mem) :
    SameAnswer (decodeCmd x.request.cmd) t v ∧ SameHeader x.request.buf t.mem v.mem := by
  obtain ⟨t', v', ht, hv, hans, hhdr⟩ := resultDependsOnRequestAndHeaderOnly (decodeCmd x.request.cmd)
    (s.accept x []) (u.accept x []) rfl (fun _ => rfl) h
  obtain rfl := Host.Outcome.next.inj (ht.symm.trans hs)
  obtain rfl := Host.Outcome.next.inj (hv.symm.trans hu)
  refine ⟨hans, fun k hk => ?_⟩
  simpa only [State.hdr, exec_port ht, exec_port hv, State.accept_port] using hhdr k hk

/-- Settles O45: each transaction finds its own header as it was, so it answers the same and leaves the same bytes
there in both orders, and neither writes outside its header. -/
theorem transactionsOnDifferentHeadersCommute : Obligations.TransactionsOnDifferentHeadersCommute := by
  intro s x y hne
  obtain ⟨sx, hsx⟩ := perform_completes s x
  obtain ⟨sxy, hsxy⟩ := perform_completes sx y
  obtain ⟨sy, hsy⟩ := perform_completes s y
  obtain ⟨syx, hsyx⟩ := perform_completes sy x
  have hx : SameHeader x.request.buf s.mem sy.mem := fun k hk => (perform_sameHeader_of_ne hsy hne k hk).symm
  have hy : SameHeader y.request.buf sx.mem s.mem := perform_sameHeader_of_ne hsx hne.symm
  obtain ⟨hansx, hmemx⟩ := perform_congr hsx hsyx hx
  obtain ⟨hansy, hmemy⟩ := perform_congr hsxy hsy hy
  refine ⟨sx, sxy, sy, syx, hsx, hsxy, hsy, hsyx, hansx, hansy, fun a => ?_⟩
  obtain ⟨k, hk, rfl⟩ | hax := header_or_outside x.request.buf a
  · exact (perform_sameHeader_of_ne hsxy hne k hk).trans (hmemx k hk)
  · rw [perform_outside hsyx hax]
    obtain ⟨k, hk, rfl⟩ | hay := header_or_outside y.request.buf a
    · exact hmemy k hk
    · rw [perform_outside hsxy hay, perform_outside hsx hax, perform_outside hsy hay]

end Sys2Proof.Machine
end

section
/-! A transaction performed twice (R55). -/

namespace Sys2Proof.Machine

/-! ## Writing a word twice -/

/-- What a write leaves at an address of its own range does not depend on memory. -/
theorem readByte_memWrite_inside {m m' : Memory} {x : Nat} (n a : Nat) (w : BitVec (8 * n)) (hlo : a ≤ x)
    (hhi : x < a + n) : readByte (memWrite m a n w) x = readByte (memWrite m' a n w) x := by
  induction n generalizing m m' a with
  | zero => omega
  | succ k ih =>
    rw [memWrite, memWrite]
    obtain rfl | hlt := Nat.eq_or_lt_of_le hlo
    · apply readByte_memWrite_congr
      rw [readByte_writeByte_same, readByte_writeByte_same]
    · exact ih (a + 1) _ (by omega) (by omega)

/-- The second of two writes of the same bytes leaves every byte as it was. -/
theorem readByte_memWrite_memWrite (m : Memory) (a n : Nat) (w : BitVec (8 * n)) (x : Nat) :
    readByte (memWrite (memWrite m a n w) a n w) x = readByte (memWrite m a n w) x := by
  by_cases h : a ≤ x ∧ x < a + n
  · exact readByte_memWrite_inside n a w h.1 h.2
  · exact readByte_memWrite_outside _ _ _ _ _ (by omega)

/-- Insert of a value that stands there changes nothing (R103). -/
theorem insertBits_insertBits {n : Nat} (w v mask : BitVec n) (shift : Nat) :
    insertBits (insertBits w v mask shift) v mask shift = insertBits w v mask shift := by
  ext k hk
  simp only [insertBits, BitVec.getElem_or, BitVec.getElem_and, BitVec.getElem_not]
  cases mask[k] <;> simp

/-- The second of two writes of the same field value leaves every byte as it was (R55, R103). -/
theorem readByte_fieldPut_fieldPut (m : Memory) (b : Nat) (f : Field) (v : Value) (x : Nat) :
    readByte (fieldPut (fieldPut m b f v) b f v) x = readByte (fieldPut m b f v) x := by
  have hword : insertBits (wordRead (fieldPut m b f v) b f.sel) (v.setWidth (8 * f.sel.size)) f.mask f.shift =
      insertBits (wordRead m b f.sel) (v.setWidth (8 * f.sel.size)) f.mask f.shift := by
    rw [wordRead_fieldPut_same, insertBits_insertBits]
  rw [fieldPut, hword]
  exact readByte_memWrite_memWrite _ _ _ _ _

/-! ## The effect of a SET -/

/-- Whether a field accepts a value, and the bits it then stores, depend on the field and the value alone (R150). -/
theorem storeValue_uniform (f : Field) (v : Value) :
    (∃ e, ∀ m b, storeValue m b f v = .error e) ∨ (∃ w, ∀ m b, storeValue m b f v = .ok (fieldPut m b f w)) := by
  unfold storeValue
  split
  · cases freqEncode v with
    | error e => exact .inl ⟨e, fun _ _ => rfl⟩
    | ok c => exact .inr ⟨_, fun _ _ => rfl⟩
  · split
    · exact .inr ⟨_, fun _ _ => rfl⟩
    · exact .inl ⟨_, fun _ _ => rfl⟩

/-- What a SET does to the header bytes depends on its request alone: nothing, or one fixed `FieldPut` (R150). -/
theorem setResult_uniform (code : FieldCode) (v : Value) (p : Request) :
    (∃ e, ∀ s : State, s.port = p → setResult code v s = .error e) ∨
    (∀ s : State, s.port = p → setResult code v s = .ok s.mem) ∨
    (∃ f w, ∀ s : State, s.port = p → setResult code v s = .ok (fieldPut s.mem p.buf f w)) := by
  cases hhdr : p.hdrPresent with
  | false => exact .inl ⟨.invalidArgument, fun s hp => by simp [setResult, hp, hhdr]⟩
  | true =>
    cases hd : desc code with
    | unknown => exact .inl ⟨.invalidArgument, fun s hp => by simp [setResult, hp, hhdr, hd]⟩
    | virtual =>
      by_cases hv : v = Config.pullX1
      · exact .inr (.inl fun s hp => by simp [setResult, hp, hhdr, hd, hv])
      · exact .inl ⟨.invalidValue, fun s hp => by simp [setResult, hp, hhdr, hd, hv]⟩
    | stored f =>
      obtain ⟨e, h⟩ | ⟨w, h⟩ := storeValue_uniform f v
      · exact .inl ⟨e, fun s hp => by simp [setResult, hp, hhdr, hd, h]⟩
      · exact .inr (.inr ⟨f, w, fun s hp => by simp [setResult, hp, hhdr, hd, h]⟩)

/-- The header bytes after a SET, as a function of the bytes before it that its request alone fixes. -/
theorem setField_mem_uniform (code : FieldCode) (p : Request) :
    (∀ s : State, s.port = p → (setField code s).mem = s.mem) ∨
    (∃ f w, ∀ s : State, s.port = p → (setField code s).mem = fieldPut s.mem p.buf f w) := by
  obtain ⟨e, h⟩ | h | ⟨f, w, h⟩ := setResult_uniform code p.wdata p
  · exact .inl fun s hp => by simp [setField, hp, h s hp]
  · exact .inl fun s hp => by simp [setField, hp, h s hp]
  · exact .inr ⟨f, w, fun s hp => by simp [setField, hp, h s hp]⟩

/-- The second of two SETs leaves every byte as it was (R55). -/
theorem readByte_setField_setField (code : FieldCode) (s : State) (x : Nat) :
    readByte (setField code (setField code s)).mem x = readByte (setField code s).mem x := by
  obtain h | ⟨f, w, h⟩ := setField_mem_uniform code s.port
  · rw [h _ (setField_port code s)]
  · rw [h _ (setField_port code s), h s rfl, readByte_fieldPut_fieldPut]

/-! ## INIT twice -/

theorem initHeader_mem_of_ok {s : State} (hp : s.port.hdrPresent = true) (hc : s.collabAnswer = .ok) :
    (initHeader s).mem =
      fieldPut (fieldPut (zeroBytes s.mem (headerAddr s.port.buf 0) hdrBytes) s.port.buf .sv 1)
        s.port.buf .tv 1 := by
  rw [initHeader_ok s hp hc, State.respondOk_mem]

/-- The second of two INITs that the collaborator answers with OK leaves every byte as it was: the zeroing forgets
what the header held (R55, R170). -/
theorem readByte_initHeader_initHeader {s : State} (hc : s.collabAnswer = .ok) (x : Nat) :
    readByte (initHeader (initHeader s)).mem x = readByte (initHeader s).mem x := by
  have hport := initHeader_port s
  cases hp : s.port.hdrPresent with
  | false => rw [initHeader_absent (initHeader s) (hport ▸ hp), State.raise_mem]
  | true =>
    obtain ⟨k, hk, rfl⟩ | hout := header_or_outside s.port.buf x
    · have hzero := zeroBytes_sameHeader s.port.buf (initHeader s).mem s.mem
      have hsame := fieldPut_congr (fieldPut_congr hzero .sv 1) .tv 1 k hk
      rw [← initHeader_mem_of_ok hp hc] at hsame
      rw [initHeader_mem_of_ok (hport ▸ hp) ((initHeader_collabAnswer s).trans hc), hport]
      exact hsame
    · exact readByte_initHeader_outside_header (initHeader s) (hport ▸ hout)

/-- Settles O47, from the frame of a GET and from what the second SET or INIT finds. -/
theorem repeatedTransactionsChangeNothingMore : Obligations.RepeatedTransactionsChangeNothingMore := by
  refine ⟨fun i s hi => ?_, fun i s hi => ?_, fun field s hc => ?_⟩
  · obtain ⟨code, hx⟩ := exec_of_op_get hi
    have hres : getResult code s = getResult code (getField code s) :=
      getResult_congr code (getField_port code s).symm fun f => by rw [getField_mem]
    exact ⟨_, _, hx s, getField_mem code s, hx _, getField_sameAnswer i hres⟩
  · obtain ⟨code, hx⟩ := exec_of_op_set hi
    exact ⟨_, _, hx s, hx _, readByte_setField_setField code s⟩
  · exact ⟨_, _, rfl, rfl, readByte_initHeader_initHeader hc⟩

end Sys2Proof.Machine
end

section
/-! The decoder and the encoder are inverse to each other (R71 to R73, R78, R81), on command words and on bytes. -/

namespace Sys2Proof

/-! ## OP bits and FIELD bits -/

@[simp] theorem opBits_append (op : BitVec 2) (field : FieldCode) : opBits (op ++ field) = op :=
  BitVec.extractLsb'_append_eq_left

@[simp] theorem fieldBits_append (op : BitVec 2) (field : FieldCode) : fieldBits (op ++ field) = field :=
  BitVec.extractLsb'_append_eq_right

@[simp] theorem opBits_append_fieldBits (c : Cmd) : opBits c ++ fieldBits c = c :=
  (BitVec.extractLsb'_append_extractLsb'_eq_extractLsb' rfl).trans BitVec.extractLsb'_eq_self

@[simp] theorem decodeCmd_get (field : FieldCode) : decodeCmd ((0b00 : BitVec 2) ++ field) = decodeGet field := by
  simp [decodeCmd]

@[simp] theorem decodeCmd_set (field : FieldCode) : decodeCmd ((0b01 : BitVec 2) ++ field) = decodeSet field := by
  simp [decodeCmd]

@[simp] theorem decodeCmd_init (field : FieldCode) : decodeCmd ((0b10 : BitVec 2) ++ field) = .init field := by
  simp [decodeCmd]

@[simp] theorem decodeCmd_rsv (field : FieldCode) : decodeCmd ((0b11 : BitVec 2) ++ field) = .rsv field := by
  simp [decodeCmd]

/-- Settles O1, row by row of the opcode map, and for INIT and the reserved OP from their OP bits. -/
theorem opcodeMapGivesEachWordItsRow : Obligations.OpcodeMapGivesEachWordItsRow :=
  ⟨rfl, rfl, rfl, rfl, rfl, rfl, rfl, rfl, rfl, rfl, rfl, rfl, rfl, rfl, rfl, rfl,
    rfl, rfl, rfl, rfl, rfl, rfl, rfl, rfl, rfl, rfl, rfl, rfl, rfl, rfl, rfl, rfl,
    decodeCmd_init, decodeCmd_rsv⟩

/-! ## Decoding what the encoder writes -/

theorem decodeGet_of_namesNoField {field : FieldCode} (h : namesNoField field = true) :
    decodeGet field = .getUnrecognised field := by
  revert field
  decide

theorem decodeSet_of_namesNoField {field : FieldCode} (h : namesNoField field = true) :
    decodeSet field = .setUnrecognised field := by
  revert field
  decide

/-- The rows of the map that name no FIELD are single words; the others keep their FIELD in the word (R78). -/
theorem decodeCmd_encode {i : Instr} (h : i.wellFormed = true) : decodeCmd (encode i) = i := by
  cases i with
  | getUnrecognised field => exact (decodeCmd_get field).trans (decodeGet_of_namesNoField h)
  | setUnrecognised field => exact (decodeCmd_set field).trans (decodeSet_of_namesNoField h)
  | init field => exact decodeCmd_init field
  | rsv field => exact decodeCmd_rsv field
  | _ => rfl

/-- The host's bytes of a command word are its byte form (notes/assumptions/12.md). -/
theorem tableBytes_toNat (c : Cmd) : tableBytes 8 c.toNat = [c.setWidth 8] := by
  have hmod : c.toNat % 256 = c.toNat := Nat.mod_eq_of_lt (Nat.lt_trans c.isLt (by decide))
  simp [tableBytes, hmod, BitVec.ofNat_toNat]

theorem decodeTableWord_toNat (c : Cmd) : decodeTableWord 8 c.toNat = some (decodeCmd c) := by
  simp only [decodeTableWord, tableBytes_toNat, decode_setWidth_cons]

/-- Settles O3: both byte forms decode to `decodeCmd` of the encoder's word, which is the instruction. -/
theorem decodeOfEncodeIsTheInstruction : Obligations.DecodeOfEncodeIsTheInstruction := by
  intro i h
  have hword := decodeCmd_encode h
  refine ⟨fun rest => ?_, ?_⟩
  · exact (decode_setWidth_cons (encode i) rest).trans (by rw [hword])
  · rw [decodeTableWord_toNat, hword]

/-! ## Encoding what the decoder reads -/

theorem encode_decodeGet : ∀ field : FieldCode, encode (decodeGet field) = (0b00 : BitVec 2) ++ field := by
  decide

theorem encode_decodeSet : ∀ field : FieldCode, encode (decodeSet field) = (0b01 : BitVec 2) ++ field := by
  decide

theorem encode_decodeCmd_append (op : BitVec 2) (field : FieldCode) :
    encode (decodeCmd (op ++ field)) = op ++ field := by
  match op with
  | 0b00 => rw [decodeCmd_get, encode_decodeGet]
  | 0b01 => rw [decodeCmd_set, encode_decodeSet]
  | 0b10 => rw [decodeCmd_init, encode]
  | 0b11 => rw [decodeCmd_rsv, encode]

/-- No bit of a command word is lost (R81). -/
theorem encode_decodeCmd (c : Cmd) : encode (decodeCmd c) = c := by
  simpa only [opBits_append_fieldBits] using encode_decodeCmd_append (opBits c) (fieldBits c)

/-! ## The byte form -/

/-- A first byte of 64 or more is no command word (notes/assumptions/12.md). -/
theorem decode_cons_of_le {b : Byte} (h : 64 ≤ b.toNat) (tail : List Byte) :
    decode (b :: tail) = .error (.notACommandWord b) :=
  if_neg (Nat.not_lt.mpr h)

theorem decode_cons_of_lt {b : Byte} (h : b.toNat < 64) (tail : List Byte) :
    decode (b :: tail) = .ok (decodeCmd (b.setWidth 6), tail) :=
  if_pos h

/-- The byte decoder takes one byte, whatever the instruction (R81). -/
theorem decode_cons_rest {b : Byte} {tail tail' : List Byte} {i : Instr}
    (h : decode (b :: tail) = .ok (i, tail')) : tail' = tail := by
  obtain hlt | hle := Nat.lt_or_ge b.toNat 64
  · rw [decode_cons_of_lt hlt] at h
    cases h
    rfl
  · rw [decode_cons_of_le hle] at h
    cases h

/-- Settles O2: `decodeCmd` reads a well-formed instruction with the word, and any other such instruction is what its
own word decodes to. -/
theorem exactlyOneInstructionPerCommandWord : Obligations.ExactlyOneInstructionPerCommandWord := by
  refine ⟨fun _ _ _ _ => decode_cons_rest, fun c => ⟨decodeCmd_wellFormed c, encode_decodeCmd c, ?_⟩⟩
  rintro j hj rfl
  exact (decodeCmd_encode hj).symm

/-- Settles O4, from the bound on the first byte. -/
theorem bytesBeyondTheCommandAreRefused : Obligations.BytesBeyondTheCommandAreRefused :=
  ⟨fun _ tail h => decode_cons_of_le h tail, rfl⟩

end Sys2Proof
end

section
/-! The status of a completed transaction (R75), the reserved OP (R79) and the assembly lines (R82). -/

namespace Sys2Proof.Machine

/-! ## Status -/

theorem Status.bits_cases (st : Status) : st.bits = 0b00 ∨ st.bits = 0b01 ∨ st.bits = 0b10 := by
  match st with
  | .ok => exact .inl rfl
  | .error .invalidArgument => exact .inr (.inl rfl)
  | .error .invalidValue => exact .inr (.inr rfl)

/-- A completed transaction: its response carries a status of R75. -/
def State.Completed (s : State) : Prop :=
  ∃ (st : Status) (v : Value), s.response = some ⟨st.bits, v⟩

theorem respond_completed (s : State) (st : Status) (v : Value) : (s.respond st v).Completed :=
  ⟨st, v, rfl⟩

theorem raise_completed (s : State) (e : ErrorKind) : (s.raise e).Completed :=
  respond_completed _ (.error e) _

theorem respondOk_completed (s : State) : s.respondOk.Completed :=
  respond_completed _ .ok _

theorem getField_completed (code : FieldCode) (s : State) : (getField code s).Completed := by
  obtain ⟨v, -, h⟩ | ⟨e, -, h⟩ := getField_cases code s <;> rw [h]
  · exact respond_completed s .ok v
  · exact raise_completed s e

theorem setField_completed (code : FieldCode) (s : State) : (setField code s).Completed := by
  obtain ⟨m, -, h⟩ | ⟨e, -, h⟩ := setField_cases code s <;> rw [h]
  · exact respondOk_completed _
  · exact raise_completed s e

theorem initHeader_completed (s : State) : (initHeader s).Completed := by
  cases hp : s.port.hdrPresent with
  | false =>
    rw [initHeader_absent s hp]
    exact raise_completed s _
  | true =>
    obtain hc | ⟨e, hc⟩ := s.collabAnswer_cases
    · rw [initHeader_ok s hp hc]
      exact respondOk_completed _
    · rw [initHeader_error s hp e hc]
      exact raise_completed _ e

theorem exec_completed (i : Instr) (s : State) : ∃ t, exec i s = .next t ∧ t.Completed := by
  obtain ⟨-, -, code, h⟩ | ⟨-, -, code, h⟩ | ⟨-, -, h⟩ | ⟨-, -, h⟩ := exec_cases i
  · exact ⟨_, h s, getField_completed code s⟩
  · exact ⟨_, h s, setField_completed code s⟩
  · exact ⟨_, h s, initHeader_completed s⟩
  · exact ⟨_, h s, raise_completed s _⟩

/-- Settles O34: every instruction completes, and a status is one of the three codes. -/
theorem statusIsOneOfTheThreeCodes : Obligations.StatusIsOneOfTheThreeCodes := by
  refine ⟨rfl, rfl, rfl, fun i s => ?_⟩
  obtain ⟨t, hx, st, v, hr⟩ := exec_completed i s
  exact ⟨t, _, hx, hr, st.bits_cases⟩

/-! ## The reserved OP -/

/-- An instruction that raises changes nothing but the response and the draw counter (R185). -/
theorem endsUnchanged_of_raise {i : Instr} {s : State} {e : ErrorKind} (h : exec i s = .next (s.raise e)) :
    EndsUnchanged i s e.bits :=
  ⟨_, _, h.trans (congrArg Host.Outcome.next (s.raise_eq e))⟩

/-- Settles O33: the reserved OP is a raise in every state. -/
theorem reservedOpRaisesInvalidArgument : Obligations.ReservedOpRaisesInvalidArgument :=
  fun field _ => ⟨decodeCmd_rsv field, endsUnchanged_of_raise (e := .invalidArgument) rfl⟩

/-! ## The assembly lines -/

/-- Settles O49: the request of a line by its definition, and the example lines by reading their characters. -/
theorem assemblyLinesStandForTheirRequests : Obligations.AssemblyLinesStandForTheirRequests :=
  ⟨fun _ _ _ _ _ => ⟨rfl, rfl, rfl, rfl, rfl, fun _ => ⟨rfl, rfl⟩⟩,
    by decide, by decide, by decide, by decide, by decide⟩

end Sys2Proof.Machine
end

section
/-! The bit accessor: the byte order of `MemRead` and `MemWrite` (R101), the laws of Extract and Insert (R104), the
field codes (R105), the access to one field (R106) and the range check (R107). -/

namespace Sys2Proof.Machine

/-! ## Byte order -/

/-- The byte at the lowest address is the most significant one (R101). -/
theorem memRead_extractLsb' (m : Memory) (n a i : Nat) (hi : i < n) :
    (memRead m a n).extractLsb' (8 * (n - 1 - i)) 8 = readByte m (a + i) := by
  induction n generalizing a i with
  | zero => omega
  | succ k ih =>
    have hcast : (memRead m a (k + 1)).extractLsb' (8 * (k + 1 - 1 - i)) 8 =
        (readByte m a ++ memRead m (a + 1) k).extractLsb' (8 * (k - i)) 8 :=
      BitVec.eq_of_toNat_eq (by simp [memRead])
    rw [hcast]
    cases i with
    | zero => exact BitVec.extractLsb'_append_eq_left
    | succ j =>
      rw [BitVec.extractLsb'_append_eq_of_add_le (by omega), show k - (j + 1) = k - 1 - j by omega,
        ih (a + 1) j (by omega), show a + 1 + j = a + (j + 1) by omega]

/-- Settles O5: the bytes of a written word are those of the word that reads back. -/
theorem memReadAndMemWriteAreBigEndian : Obligations.MemReadAndMemWriteAreBigEndian := by
  refine fun m a n => ⟨memRead_extractLsb' m n a, fun w => ?_⟩
  have hback := memRead_memWrite_same n m a w
  refine ⟨fun i hi => ?_, fun x => readByte_memWrite_outside n m a x w, hback⟩
  rw [← memRead_extractLsb' _ n a i hi, hback]

/-! ## Extract and Insert -/

/-- Inside the mask, Insert leaves the bits of the value (R103). -/
theorem insertBits_and_mask {n : Nat} (w v mask : BitVec n) (shift : Nat) :
    insertBits w v mask shift &&& mask = (v <<< shift) &&& mask := by
  ext k hk
  simp only [insertBits, BitVec.getElem_and, BitVec.getElem_or, BitVec.getElem_not]
  cases mask[k] <;> simp

/-- A value below 2^width has no bit above the field. -/
theorem and_ones_of_lt {n width : Nat} {v : BitVec n} (hn : width ≤ n) (hv : v.toNat < 2 ^ width) :
    v &&& ones n width = v := by
  have hones : 2 ^ width - 1 < 2 ^ n :=
    Nat.sub_one_lt_of_le (Nat.two_pow_pos width) (Nat.pow_le_pow_right (by decide) hn)
  apply BitVec.eq_of_toNat_eq
  rw [ones, BitVec.toNat_and, BitVec.toNat_ofNat, Nat.mod_eq_of_lt hones,
    Nat.and_two_pow_sub_one_of_lt_two_pow hv]

/-- A shift that keeps a value inside the word can be undone. -/
theorem shiftLeft_ushiftRight_of_lt {n width shift : Nat} {v : BitVec n} (hn : width + shift ≤ n)
    (hv : v.toNat < 2 ^ width) : (v <<< shift) >>> shift = v := by
  have hlt : v.toNat <<< shift < 2 ^ n :=
    calc v.toNat <<< shift = v.toNat * 2 ^ shift := Nat.shiftLeft_eq _ _
      _ < 2 ^ width * 2 ^ shift := Nat.mul_lt_mul_of_pos_right hv (Nat.two_pow_pos shift)
      _ = 2 ^ (width + shift) := (Nat.pow_add 2 width shift).symm
      _ ≤ 2 ^ n := Nat.pow_le_pow_right (by decide) hn
  apply BitVec.eq_of_toNat_eq
  rw [BitVec.toNat_ushiftRight, BitVec.toNat_shiftLeft, Nat.mod_eq_of_lt hlt, Nat.shiftLeft_shiftRight]

/-- Get after set (R104): a value that fits the field reads back. -/
theorem extractBits_insertBits_same {n width shift : Nat} (w : BitVec n) {v : BitVec n} (hn : width + shift ≤ n)
    (hv : v.toNat < 2 ^ width) :
    extractBits (insertBits w v (ones n width <<< shift) shift) (ones n width <<< shift) shift = v := by
  rw [extractBits, insertBits_and_mask, ← BitVec.shiftLeft_and_distrib, and_ones_of_lt (by omega) hv,
    shiftLeft_ushiftRight_of_lt hn hv]

/-- Set of the current value (R104): no bit of the mask is below the shift, so Extract loses none of the field. -/
theorem insertBits_extractBits {n : Nat} (w field : BitVec n) (shift : Nat) :
    insertBits w (extractBits w (field <<< shift) shift) (field <<< shift) shift = w := by
  have hback : extractBits w (field <<< shift) shift <<< shift = w &&& (field <<< shift) := by
    rw [extractBits, BitVec.shiftLeft_ushiftRight, BitVec.and_assoc, ← BitVec.shiftLeft_and_distrib,
      BitVec.and_allOnes]
  rw [insertBits, hback, BitVec.and_assoc, BitVec.and_self]
  ext k hk
  simp only [BitVec.getElem_and, BitVec.getElem_or, BitVec.getElem_not]
  cases (field <<< shift)[k] <;> simp

/-- Independence (R104): Insert in one field does not show in Extract of a field whose mask is disjoint. -/
theorem extractBits_insertBits_of_disjoint {n : Nat} (w v mask mask' : BitVec n) (shift shift' : Nat)
    (h : mask &&& mask' = 0) :
    extractBits (insertBits w v mask shift) mask' shift' = extractBits w mask' shift' := by
  rw [extractBits, extractBits, insertBits_and_of_disjoint _ _ _ _ _ h]

/-- Settles O6, law by law: isolation, get after set, set of the current value, independence. -/
theorem extractAndInsertLaws : Obligations.ExtractAndInsertLaws :=
  fun _ _ shift w v hn =>
    ⟨insertBits_and_of_disjoint w v _ _ shift (BitVec.and_not_self _),
      extractBits_insertBits_same w hn,
      insertBits_extractBits w _ shift,
      fun _ shift' _ => extractBits_insertBits_of_disjoint w v _ _ shift shift'⟩

/-! ## Field codes -/

/-- The "code" column of the field descriptor table (R24). -/
def Field.code (f : Field) : FieldCode :=
  match f with
  | .streamId => 0
  | .sv => 1
  | .mr => 2
  | .fs => 3
  | .tv => 4
  | .tu => 5
  | .seqNum => 6
  | .type => 7
  | .baseFreq => 8
  | .crfDataLen => 9
  | .timestampInterval => 10

@[simp] theorem desc_code (f : Field) : desc f.code = .stored f := by
  cases f <;> rfl

/-- The SET word of a stored field performs the SET of its code (R78, R150). -/
theorem exec_setter (f : Field) (s : State) : exec f.setter s = .next (setField f.code s) := by
  cases f <;> rfl

theorem isTranslated_iff (f : Field) : f.isTranslated = true ↔ f = .baseFreq := by
  cases f <;> decide

theorem hasGet_eq_false_iff : ∀ code : FieldCode,
    hasGet code = false ↔ code ∈ ([4, 12, 13, 14, 15] : List FieldCode) := by
  decide

/-- The codes that `Desc` does not know are those the unrecognised rows of the opcode map carry (R78, R105). -/
theorem namesNoField_of_desc_unknown : ∀ code : FieldCode, desc code = .unknown → namesNoField code = true := by
  decide

/-- GET of an unknown code raises and changes nothing (R105, R143). -/
theorem get_unknown_endsUnchanged {code : FieldCode} (h : desc code = .unknown) (s : State) :
    EndsUnchanged (decodeCmd ((0b00 : BitVec 2) ++ code)) s 0b01 := by
  rw [decodeCmd_get, decodeGet_of_namesNoField (namesNoField_of_desc_unknown code h)]
  exact endsUnchanged_of_raise (e := .invalidArgument) rfl

/-- SET of an unknown code raises and changes nothing (R105, R163). -/
theorem set_unknown_endsUnchanged {code : FieldCode} (h : desc code = .unknown) (s : State) :
    EndsUnchanged (decodeCmd ((0b01 : BitVec 2) ++ code)) s 0b01 := by
  rw [decodeCmd_set, decodeSet_of_namesNoField (namesNoField_of_desc_unknown code h)]
  exact endsUnchanged_of_raise (e := .invalidArgument) rfl

/-- Settles O8: the table by its rows, and an unknown code by the unrecognised row it decodes to. -/
theorem fieldCodeLookupIsTotalAndClosed : Obligations.FieldCodeLookupIsTotalAndClosed :=
  ⟨⟨rfl, rfl, rfl, rfl⟩, ⟨rfl, rfl, rfl, rfl⟩, ⟨rfl, rfl, rfl, rfl⟩, ⟨rfl, rfl, rfl, rfl⟩,
    ⟨rfl, rfl, rfl, rfl⟩, ⟨rfl, rfl, rfl, rfl⟩, ⟨rfl, rfl, rfl, rfl⟩, ⟨rfl, rfl, rfl, rfl⟩,
    ⟨rfl, rfl, rfl, rfl⟩, ⟨rfl, rfl, rfl, rfl⟩, ⟨rfl, rfl, rfl, rfl⟩,
    rfl, rfl, rfl, rfl, rfl, isTranslated_iff, hasGet_eq_false_iff,
    fun _ s h => ⟨get_unknown_endsUnchanged h s, set_unknown_endsUnchanged h s⟩⟩

/-! ## Field access -/

theorem extractBits_allOnes_zero {n : Nat} (w : BitVec n) : extractBits w (BitVec.allOnes n) 0 = w := by
  rw [extractBits, BitVec.and_allOnes, BitVec.ushiftRight_zero]

theorem insertBits_allOnes_zero {n : Nat} (w v : BitVec n) : insertBits w v (BitVec.allOnes n) 0 = v := by
  simp [insertBits]

/-- STREAM_ID fills its word (R24). -/
theorem mask_streamId : Field.mask .streamId = BitVec.allOnes 64 :=
  rfl

/-- With the whole word as its mask, Extract is the plain read (R106). -/
theorem fieldGet_streamId (m : Memory) (b : Nat) : fieldGet m b .streamId = memRead m (headerAddr b 0) 8 := by
  rw [fieldGet, mask_streamId]
  exact (BitVec.setWidth_eq _).trans (extractBits_allOnes_zero _)

/-- With the whole word as its mask, Insert forgets the old word (R106). -/
theorem fieldPut_streamId (m : Memory) (b : Nat) (v : Value) :
    fieldPut m b .streamId v = memWrite m (headerAddr b 0) 8 v := by
  have hword : insertBits (wordRead m b .sid) (v.setWidth 64) (BitVec.allOnes 64) 0 = v :=
    (insertBits_allOnes_zero _ _).trans (BitVec.setWidth_eq v)
  rw [fieldPut, mask_streamId]
  exact congrArg (memWrite m (headerAddr b 0) 8) hword

/-- Settles O9: the general form is the definition, and for STREAM_ID the mask is the whole word. -/
theorem fieldAccessGoesThroughItsWord : Obligations.FieldAccessGoesThroughItsWord :=
  fun m b v => ⟨fun _ => rfl, fun _ => rfl, fieldGet_streamId m b, fieldPut_streamId m b v,
    rfl, rfl, rfl, rfl, rfl, rfl⟩

/-! ## The range check -/

theorem fits_iff_lt (f : Field) (v : Value) : fits f v = true ↔ v.toNat < 2 ^ f.width :=
  decide_eq_true_iff

/-- A value fits when no bit above the width is set, of all 64 (R107). -/
theorem fits_iff_ushiftRight (f : Field) (v : Value) : fits f v = true ↔ v >>> f.width = 0 := by
  have hzero : v >>> f.width = 0 ↔ v.toNat >>> f.width = 0 := by
    rw [← BitVec.toNat_ushiftRight]
    exact BitVec.toNat_inj.symm
  rw [fits_iff_lt, hzero, Nat.shiftRight_eq_div_pow, Nat.div_eq_zero_iff_lt (Nat.two_pow_pos _)]

theorem fits_streamId (v : Value) : fits .streamId v = true :=
  (fits_iff_lt .streamId v).mpr v.isLt

/-- A SET of a value that does not fit raises before any write (R107, R150). -/
theorem setField_of_not_fits {f : Field} {s : State} (ht : f.isTranslated = false) (hp : s.port.hdrPresent = true)
    (hfit : fits f s.port.wdata = false) : setField f.code s = s.raise .invalidValue := by
  have hstore : storeValue s.mem s.port.buf f s.port.wdata = .error .invalidValue := by
    simp [storeValue, ht, hfit]
  rw [setField_stored (desc_code f) hp, hstore]

/-- Settles O10, from the two forms of the check and from the SET that fails it. -/
theorem rangeCheckComparesAllValueBits : Obligations.RangeCheckComparesAllValueBits := by
  refine ⟨fun f v => ⟨fits_iff_lt f v, fits_iff_ushiftRight f v⟩, fits_streamId, fun f s ht hp hfit => ?_⟩
  apply endsUnchanged_of_raise (e := .invalidValue)
  rw [exec_setter, setField_of_not_fits ht hp hfit]

end Sys2Proof.Machine
end

section
/-! The frequency translator (R120, R121, R122): each direction succeeds exactly on the rows of the ROM, so the two
directions are inverse to each other. -/

namespace Sys2Proof.Machine

/-! ## The ROM as data -/

theorem freqRom_nodup : freqRom.Nodup := by
  obtain ⟨_, _, _, hnodup, _⟩ := translatorRomHoldsTheTable
  exact hnodup

/-- Every entry survives the zero-extension to 64 bits (R28). -/
theorem freqRom_lt {hz : Nat} (h : hz ∈ freqRom) : hz < 2 ^ 64 := by
  obtain ⟨_, _, _, _, hlt, _⟩ := translatorRomHoldsTheTable
  exact (hlt hz h).trans (by decide)

theorem tableRates_eq_map : tableRates = freqRom.map (BitVec.ofNat 64) :=
  rfl

/-- A number that fits `n` bits is a word when it is the number of that word: the comparison of R121 on all 64 bits. -/
theorem ofNat_eq_iff_eq_toNat {n k : Nat} (h : k < 2 ^ n) (v : BitVec n) : BitVec.ofNat n k = v ↔ k = v.toNat := by
  rw [← BitVec.toNat_inj, BitVec.toNat_ofNat, Nat.mod_eq_of_lt h]

theorem mem_tableRates_iff (r : Value) : r ∈ tableRates ↔ r.toNat ∈ freqRom := by
  rw [tableRates_eq_map, List.mem_map]
  constructor
  · rintro ⟨hz, hmem, heq⟩
    rwa [← (ofNat_eq_iff_eq_toNat (freqRom_lt hmem) r).mp heq]
  · exact fun hmem => ⟨r.toNat, hmem, (ofNat_eq_iff_eq_toNat r.isLt r).mpr rfl⟩

/-! ## Decode -/

theorem freqDecode_of_ge {c : Byte} (h : freqEntries ≤ c.toNat) : freqDecode c = .error .invalidValue :=
  if_pos h

theorem freqDecode_of_getElem? {c : Byte} {hz : Nat} (h : freqRom[c.toNat]? = some hz) :
    freqDecode c = .ok (BitVec.ofNat 64 hz) := by
  have hc : ¬ freqEntries ≤ c.toNat := Nat.not_le.mpr (List.getElem?_eq_some_iff.mp h).1
  rw [freqDecode, if_neg hc, List.getD_eq_getElem?_getD, h, Option.getD_some]

/-- Decode answers `r` exactly when row `c` of the ROM is `r` (R120). -/
theorem freqDecode_eq_ok_iff (c : Byte) (r : Value) : freqDecode c = .ok r ↔ freqRom[c.toNat]? = some r.toNat := by
  cases hrow : freqRom[c.toNat]? with
  | none => simp [freqDecode_of_ge (List.getElem?_eq_none_iff.mp hrow)]
  | some hz =>
    rw [freqDecode_of_getElem? hrow, Except.ok.injEq, Option.some.injEq]
    exact ofNat_eq_iff_eq_toNat (freqRom_lt (List.mem_of_getElem? hrow)) r

/-! ## Encode -/

/-- The search from code `i` on passes over entries that all differ from the rate (R121). -/
theorem freqSearch_of_not_mem {r : Value} {entries : List Nat} (hlt : ∀ hz ∈ entries, hz < 2 ^ 64)
    (h : r.toNat ∉ entries) (i : Nat) : freqSearch r entries i = .error .invalidValue := by
  induction entries generalizing i with
  | nil => rfl
  | cons hz rest ih =>
    obtain ⟨hz_lt, hrest⟩ := List.forall_mem_cons.mp hlt
    have hne : BitVec.ofNat 64 hz ≠ r := fun heq =>
      List.ne_of_not_mem_cons h ((ofNat_eq_iff_eq_toNat hz_lt r).mp heq).symm
    rw [freqSearch, if_neg hne, ih hrest (List.not_mem_of_not_mem_cons h)]

/-- The search from code `i` on stops at the place of the rate; distinct entries give it one place only (R121). -/
theorem freqSearch_of_getElem? {r : Value} {entries : List Nat} (hlt : ∀ hz ∈ entries, hz < 2 ^ 64)
    (hnodup : entries.Nodup) {k : Nat} (h : entries[k]? = some r.toNat) (i : Nat) :
    freqSearch r entries i = .ok (BitVec.ofNat 8 (i + k)) := by
  induction entries generalizing i k with
  | nil => simp at h
  | cons hz rest ih =>
    obtain ⟨hz_lt, hrest⟩ := List.forall_mem_cons.mp hlt
    obtain ⟨hnot, hdistinct⟩ := List.nodup_cons.mp hnodup
    cases k with
    | zero => rw [freqSearch, if_pos ((ofNat_eq_iff_eq_toNat hz_lt r).mpr (Option.some.inj h)), Nat.add_zero]
    | succ k =>
      rw [List.getElem?_cons_succ] at h
      have hne : BitVec.ofNat 64 hz ≠ r := fun heq =>
        hnot ((ofNat_eq_iff_eq_toNat hz_lt r).mp heq ▸ List.mem_of_getElem? h)
      rw [freqSearch, if_neg hne, ih hrest hdistinct h, Nat.add_right_comm, Nat.add_assoc]

theorem freqEncode_of_not_mem {r : Value} (h : r.toNat ∉ freqRom) : freqEncode r = .error .invalidValue :=
  freqSearch_of_not_mem (fun _ => freqRom_lt) h 0

theorem freqEncode_of_getElem? {r : Value} {k : Nat} (h : freqRom[k]? = some r.toNat) :
    freqEncode r = .ok (BitVec.ofNat 8 k) := by
  rw [freqEncode, freqSearch_of_getElem? (fun _ => freqRom_lt) freqRom_nodup h, Nat.zero_add]

/-- A row number of the ROM fits the 8-bit wire code. -/
theorem toNat_ofNat_of_getElem? {k hz : Nat} (h : freqRom[k]? = some hz) : (BitVec.ofNat 8 k).toNat = k := by
  have hk : k < freqEntries := (List.getElem?_eq_some_iff.mp h).1
  exact ((ofNat_eq_iff_eq_toNat (hk.trans (by decide)) _).mp rfl).symm

/-- Encode answers `c` exactly when row `c` of the ROM is the rate (R121). -/
theorem freqEncode_eq_ok_iff (r : Value) (c : Byte) : freqEncode r = .ok c ↔ freqRom[c.toNat]? = some r.toNat := by
  constructor
  · intro h
    by_cases hmem : r.toNat ∈ freqRom
    · obtain ⟨k, hk⟩ := List.mem_iff_getElem?.mp hmem
      obtain rfl := Except.ok.inj ((freqEncode_of_getElem? hk).symm.trans h)
      rwa [toNat_ofNat_of_getElem? hk]
    · rw [freqEncode_of_not_mem hmem] at h
      cases h
  · intro h
    rw [freqEncode_of_getElem? h, (ofNat_eq_iff_eq_toNat c.isLt c).mpr rfl]

/-- The two directions of the translator are inverse to each other (R122). -/
theorem freqEncode_eq_ok_iff_freqDecode (r : Value) (c : Byte) : freqEncode r = .ok c ↔ freqDecode c = .ok r := by
  rw [freqEncode_eq_ok_iff, freqDecode_eq_ok_iff]

/-- Encode accepts exactly the rates of the ROM (R122). -/
theorem exists_freqEncode_iff (r : Value) : (∃ c, freqEncode r = .ok c) ↔ r.toNat ∈ freqRom := by
  constructor
  · rintro ⟨c, hc⟩
    exact List.mem_of_getElem? ((freqEncode_eq_ok_iff r c).mp hc)
  · intro hmem
    obtain ⟨k, hk⟩ := List.mem_iff_getElem?.mp hmem
    exact ⟨_, freqEncode_of_getElem? hk⟩

/-- Decode accepts exactly the codes that have an entry (R122). -/
theorem exists_freqDecode_iff (c : Byte) : (∃ r, freqDecode c = .ok r) ↔ c.toNat < freqEntries := by
  constructor
  · rintro ⟨r, hr⟩
    exact (List.getElem?_eq_some_iff.mp ((freqDecode_eq_ok_iff c r).mp hr)).1
  · exact fun hc => ⟨_, freqDecode_of_getElem? (List.getElem?_eq_getElem hc)⟩

/-! ## The obligations -/

/-- Settles O13, from the row of the ROM each direction goes through. -/
theorem translatorDecodesAndEncodesByTheTable : Obligations.TranslatorDecodesAndEncodesByTheTable := by
  refine ⟨fun c hc => freqDecode_of_ge hc, fun c hz h => freqDecode_of_getElem? h, fun r c => ?_, fun r hne => ?_⟩
  · rw [freqEncode_eq_ok_iff]
    exact ⟨fun h => ⟨_, h, rfl⟩, fun ⟨_, h, heq⟩ => heq ▸ h⟩
  · exact freqEncode_of_not_mem fun hmem => hne r.toNat hmem rfl

/-- Settles O14: an accepted rate or code has its answer, and the inverse law turns that answer back. -/
theorem translatorRoundTrips : Obligations.TranslatorRoundTrips := by
  refine ⟨fun hz hmem => ?_, fun c hc => ?_, fun r => ?_, exists_freqDecode_iff⟩
  · have hrate : hz = (BitVec.ofNat 64 hz).toNat := (ofNat_eq_iff_eq_toNat (freqRom_lt hmem) _).mp rfl
    obtain ⟨c, hc⟩ := (exists_freqEncode_iff (BitVec.ofNat 64 hz)).mpr (hrate ▸ hmem)
    exact ⟨c, hc, (freqEncode_eq_ok_iff_freqDecode _ c).mp hc⟩
  · obtain ⟨r, hr⟩ := (exists_freqDecode_iff c).mpr hc
    exact ⟨r, hr, (freqEncode_eq_ok_iff_freqDecode r c).mpr hr⟩
  · rw [exists_freqEncode_iff, mem_tableRates_iff]

end Sys2Proof.Machine
end

section
/-! The GET family (R130 to R143): what each GET answers, as a part of its container word and as header bytes. -/

namespace Sys2Proof.Machine

/-! ## The frame of a GET -/

/-- Settles O22: an OP 0b00 instruction performs a GET, and the frame of a GET is the response and the counter. -/
theorem everyGetWritesNothing : Obligations.EveryGetWritesNothing := by
  intro i s hop
  obtain ⟨code, hexec⟩ := exec_of_op_get hop
  obtain ⟨⟨status, rdata⟩, draws, hframe⟩ := getField_frame code s
  exact ⟨status, rdata, draws, (hexec s).trans (congrArg Host.Outcome.next hframe)⟩

/-! ## The transaction of a GET word -/

/-- The GET word of a stored field performs the GET of its code (R78, R130). -/
theorem exec_getter (f : Field) (s : State) : exec f.getter s = .next (getField f.code s) := by
  cases f <;> rfl

theorem decodeCmd_getter (f : Field) : decodeCmd ((0b00 : BitVec 2) ++ f.code) = f.getter := by
  rw [decodeCmd_get]
  cases f <;> rfl

theorem hasGet_code {f : Field} (hf : f ≠ .tv) : hasGet f.code = true := by
  cases f with
  | tv => exact absurd rfl hf
  | _ => rfl

/-- A GET without a header or without a result taker changes nothing (R77, R130). -/
theorem get_absent_endsUnchanged {i : Instr} {code : FieldCode} {s : State}
    (hexec : exec i s = .next (getField code s)) (h : s.port.hdrPresent = false ∨ s.port.outPresent = false) :
    EndsUnchanged i s 0b01 :=
  endsUnchanged_of_raise (e := .invalidArgument) (hexec.trans (congrArg Host.Outcome.next (getField_absent code s h)))

/-- A GET of a code that has no GET raises, whatever the presence inputs are (R130). -/
theorem getField_of_not_hasGet {code : FieldCode} (hg : hasGet code = false) (s : State) :
    getField code s = s.raise .invalidArgument := by
  have hresult : getResult code s = .error .invalidArgument := by
    simp [getResult, hg]
  simp only [getField, hresult]

/-- A GET of the virtual field, with both presence inputs 1 (R130). -/
theorem getField_virtual {code : FieldCode} {s : State} (hd : desc code = .virtual) (hg : hasGet code = true)
    (hp : s.port.hdrPresent = true) (ho : s.port.outPresent = true) :
    getField code s = s.respondValue Config.pullX1 := by
  have hresult : getResult code s = .ok Config.pullX1 := by
    simp [getResult, hd, hg, hp, ho]
  simp only [getField, hresult]

/-- A GET rule, from the value that its code answers. -/
theorem getRule_of_respondValue {c : Cmd} {i : Instr} {code : FieldCode} {value : State → Value}
    (hdecode : decodeCmd c = i) (hexec : ∀ s, exec i s = .next (getField code s))
    (hvalue : ∀ s : State, s.port.hdrPresent = true → s.port.outPresent = true →
      getField code s = s.respondValue (value s)) : GetRule c i value :=
  ⟨hdecode, fun s =>
    ⟨fun hp ho => (hexec s).trans (congrArg Host.Outcome.next (hvalue s hp ho)),
      fun hp => get_absent_endsUnchanged (hexec s) (.inl hp),
      fun ho => get_absent_endsUnchanged (hexec s) (.inr ho)⟩⟩

/-! ## PULL, TV and the unrecognised fields -/

/-- Settles O20: code 11 is the virtual field, and its GET reads no byte. -/
theorem getPullAnswersTheConstant : Obligations.GetPullAnswersTheConstant :=
  getRule_of_respondValue (code := 11) rfl (fun _ => rfl) fun _ => getField_virtual rfl rfl

/-- Settles O21: TV has no GET, and the unrecognised rows raise by definition. -/
theorem getTvAndUnrecognisedRaiseInvalidArgument : Obligations.GetTvAndUnrecognisedRaiseInvalidArgument := by
  refine ⟨rfl, fun s => ?_, fun field hfield => ?_, fun field s => ?_⟩
  · apply endsUnchanged_of_raise (e := .invalidArgument)
    exact congrArg Host.Outcome.next (getField_of_not_hasGet (code := 4) rfl s)
  · exact (decodeCmd_get field).trans (decodeGet_of_namesNoField (decide_eq_true hfield))
  · exact endsUnchanged_of_raise (e := .invalidArgument) rfl

/-! ## Container words and header bytes -/

/-- The container word `sel` of the header the request names (R100). -/
def State.word (s : State) (sel : WordSel) : BitVec (8 * sel.size) :=
  match sel with
  | .sid => s.streamIdWord
  | .a => s.wordA
  | .b => s.wordB

theorem wordRead_eq_word (s : State) (sel : WordSel) : wordRead s.mem s.port.buf sel = s.word sel := by
  cases sel with
  | sid => exact wordRead_sid s
  | a => exact wordRead_a s
  | b => exact wordRead_b s

/-- One byte of a container word (R100, R101). -/
theorem word_byte (s : State) (sel : WordSel) (i : Nat) (hi : i < sel.size) :
    (s.word sel).extractLsb' (8 * (sel.size - 1 - i)) 8 = s.hdr (sel.off + i) := by
  rw [← wordRead_eq_word, wordRead, memRead_extractLsb' _ _ _ i hi, State.hdr, headerByte, headerAddr, headerAddr,
    Nat.add_assoc]

/-- One bit of a container word, as a bit of its byte. -/
theorem word_bit (s : State) (sel : WordSel) (i j : Nat) (hi : i < sel.size) (hj : j < 8) :
    (s.word sel).extractLsb' (8 * (sel.size - 1 - i) + j) 1 = BitVec.ofBool ((s.hdr (sel.off + i)).getLsbD j) := by
  rw [← word_byte s sel i hi]
  ext k hk
  obtain rfl : k = 0 := by omega
  simp [hj]

/-- Two neighbouring bytes of a container word, the first more significant. -/
theorem word_two_bytes (s : State) (sel : WordSel) (i : Nat) (hi : i + 1 < sel.size) :
    (s.word sel).extractLsb' (8 * (sel.size - 1 - (i + 1))) 16 = s.hdr (sel.off + i) ++ s.hdr (sel.off + (i + 1)) := by
  rw [← word_byte s sel i (by omega), ← word_byte s sel (i + 1) hi]
  have hstart : 8 * (sel.size - 1 - i) = 8 * (sel.size - 1 - (i + 1)) + 8 := by omega
  exact (BitVec.extractLsb'_append_extractLsb'_eq_extractLsb' hstart).symm

/-! ## Extract as a range of bits -/

theorem ones_getLsbD {n width k : Nat} (hk : k < n) : (ones n width).getLsbD k = decide (k < width) := by
  rw [ones, BitVec.getLsbD_ofNat, Nat.testBit_two_pow_sub_one, decide_eq_true hk, Bool.true_and]

/-- Extract with a mask of `width` ones at `shift` is that range of bits (R102). -/
theorem extractBits_ones_shiftLeft {n width shift : Nat} (w : BitVec n) (hn : width + shift ≤ n) :
    extractBits w (ones n width <<< shift) shift = (w.extractLsb' shift width).setWidth n := by
  ext k hk
  by_cases hwidth : k < width
  · have hbound : shift + k < n := by omega
    simp [extractBits, ones_getLsbD hk, hwidth, hbound]
  · simp [extractBits, BitVec.getLsbD_shiftLeft, ones_getLsbD hk, hwidth]

theorem Field.width_add_shift_le (f : Field) : f.width + f.shift ≤ 8 * f.sel.size := by
  cases f <;> decide

/-- Extract of a field is the field's range of bits of its word (R24, R102). -/
theorem extractBits_mask (f : Field) (w : BitVec (8 * f.sel.size)) :
    extractBits w f.mask f.shift = (w.extractLsb' f.shift f.width).setWidth (8 * f.sel.size) := by
  rw [mask_eq_ones_shiftLeft, extractBits_ones_shiftLeft w f.width_add_shift_le]

theorem setWidth_extractBits_mask (f : Field) (w : BitVec (8 * f.sel.size)) (k : Nat) :
    (extractBits w f.mask f.shift).setWidth k = (w.extractLsb' f.shift f.width).setWidth k := by
  have hwidth := f.width_add_shift_le
  rw [extractBits_mask, BitVec.setWidth_setWidth (by omega)]

/-! ## The GETs of the stored fields -/

theorem fieldGet_eq_word (s : State) (f : Field) :
    fieldGet s.mem s.port.buf f = (extractBits (s.word f.sel) f.mask f.shift).setWidth 64 := by
  rw [fieldGet, wordRead_eq_word]

/-- The GET rule of a stored field with neither an illegal GET nor a translator (R130, R106). -/
theorem getRule_getter {f : Field} (htv : f ≠ .tv) (ht : f.isTranslated = false) {value : State → Value}
    (hvalue : ∀ s : State, (extractBits (s.word f.sel) f.mask f.shift).setWidth 64 = value s) :
    GetRule ((0b00 : BitVec 2) ++ f.code) f.getter value := by
  refine getRule_of_respondValue (decodeCmd_getter f) (exec_getter f) fun s hp ho => ?_
  have hstored : storedValue s.mem s.port.buf f = .ok (value s) := by
    rw [← hvalue, ← fieldGet_eq_word]
    simp [storedValue, ht]
  rw [getField_stored (desc_code f) (hasGet_code htv) hp ho, hstored]

/-- Settles O15: STREAM_ID's mask is its whole word. -/
theorem getStreamIdReadsTheWholeWord : Obligations.GetStreamIdReadsTheWholeWord :=
  getRule_getter (f := .streamId) (by decide) rfl fun _ =>
    (BitVec.setWidth_eq _).trans (extractBits_allOnes_zero _)

/-- Settles O16: a flag is a field of width 1, so its range of word A is one bit of `H[9]` or `H[11]`. -/
theorem getFlagReadsItsBit : Obligations.GetFlagReadsItsBit := by
  refine ⟨getRule_getter (f := .sv) (by decide) rfl fun _ => rfl,
    getRule_getter (f := .mr) (by decide) rfl fun _ => rfl,
    getRule_getter (f := .fs) (by decide) rfl fun _ => rfl,
    getRule_getter (f := .tu) (by decide) rfl fun _ => congrArg _ (BitVec.ushiftRight_zero _),
    fun s => ⟨?_, ?_, ?_, ?_⟩⟩
  · exact (setWidth_extractBits_mask .sv s.wordA 64).trans (congrArg _ (word_bit s .a 1 7 (by decide) (by decide)))
  · exact (setWidth_extractBits_mask .mr s.wordA 64).trans (congrArg _ (word_bit s .a 1 3 (by decide) (by decide)))
  · exact (setWidth_extractBits_mask .fs s.wordA 64).trans (congrArg _ (word_bit s .a 1 1 (by decide) (by decide)))
  · exact (setWidth_extractBits_mask .tu s.wordA 64).trans (congrArg _ (word_bit s .a 3 0 (by decide) (by decide)))

/-- Settles O17: SEQ_NUM is the third byte of word A. -/
theorem getSeqNumReadsByteTen : Obligations.GetSeqNumReadsByteTen :=
  ⟨getRule_getter (f := .seqNum) (by decide) rfl fun _ => rfl, fun s =>
    (setWidth_extractBits_mask .seqNum s.wordA 64).trans (congrArg _ (word_byte s .a 2 (by decide)))⟩

/-- Settles O18: a field of width 16 is two neighbouring bytes of word B, whose width is the value bus's. -/
theorem getSixteenBitFieldsOfWordB : Obligations.GetSixteenBitFieldsOfWordB := by
  refine ⟨getRule_getter (f := .type) (by decide) rfl fun _ => BitVec.setWidth_eq _,
    getRule_getter (f := .crfDataLen) (by decide) rfl fun _ => BitVec.setWidth_eq _,
    getRule_getter (f := .timestampInterval) (by decide) rfl fun _ =>
      (BitVec.setWidth_eq _).trans (BitVec.ushiftRight_zero _), fun s => ⟨?_, ?_, ?_⟩⟩
  · exact (extractBits_mask .type s.wordB).trans (congrArg _ (word_two_bytes s .b 2 (by decide)))
  · exact (extractBits_mask .crfDataLen s.wordB).trans (congrArg _ (word_two_bytes s .b 0 (by decide)))
  · exact (BitVec.ushiftRight_zero _).symm.trans <|
      (extractBits_mask .timestampInterval s.wordB).trans (congrArg _ (word_two_bytes s .b 6 (by decide)))

/-! ## GET BASE_FREQ -/

/-- The wire code of BASE_FREQ is `H[16]` (R139). -/
theorem setWidth_extractBits_baseFreq (s : State) :
    (extractBits s.wordB (Field.mask .baseFreq) (Field.shift .baseFreq)).setWidth 8 = s.hdr 16 :=
  (setWidth_extractBits_mask .baseFreq s.wordB 8).trans
    ((BitVec.setWidth_eq _).trans (word_byte s .b 4 (by decide)))

/-- The stored value of BASE_FREQ is the rate of code `H[16]` (R130, R139). -/
theorem storedValue_baseFreq (s : State) : storedValue s.mem s.port.buf .baseFreq = freqDecode (s.hdr 16) := by
  have hcode : (fieldGet s.mem s.port.buf .baseFreq).setWidth 8 = s.hdr 16 := by
    rw [fieldGet_eq_word, BitVec.setWidth_setWidth (by decide)]
    exact setWidth_extractBits_baseFreq s
  exact congrArg freqDecode hcode

/-- Settles O19: the translator decodes `H[16]`, and the presence checks come before it. -/
theorem getBaseFreqDecodesByteSixteen : Obligations.GetBaseFreqDecodesByteSixteen := by
  refine ⟨rfl, fun s => ⟨setWidth_extractBits_baseFreq s, fun hp ho => ?_,
    fun hp => get_absent_endsUnchanged (exec_getter .baseFreq s) (.inl hp),
    fun ho => get_absent_endsUnchanged (exec_getter .baseFreq s) (.inr ho)⟩⟩
  have hget := getField_stored (desc_code .baseFreq) rfl hp ho
  rw [storedValue_baseFreq] at hget
  refine ⟨fun hz hrow => ?_, fun hge => ?_⟩
  · rw [freqDecode_of_getElem? hrow] at hget
    exact (exec_getter .baseFreq s).trans (congrArg Host.Outcome.next hget)
  · rw [freqDecode_of_ge hge] at hget
    exact endsUnchanged_of_raise ((exec_getter .baseFreq s).trans (congrArg Host.Outcome.next hget))

end Sys2Proof.Machine
end

section
/-! The SET family (R150 to R163): what each SET stores in its container word, which header bytes it writes, and the
values it refuses. -/

namespace Sys2Proof.Machine

/-! ## A SET that raises -/

theorem decodeCmd_setter (f : Field) : decodeCmd ((0b01 : BitVec 2) ++ f.code) = f.setter := by
  rw [decodeCmd_set]
  cases f <;> rfl

/-- A SET without a header changes nothing (R77, R150). -/
theorem set_absent_endsUnchanged {i : Instr} {code : FieldCode} {s : State}
    (hexec : exec i s = .next (setField code s)) (h : s.port.hdrPresent = false) : EndsUnchanged i s 0b01 :=
  endsUnchanged_of_raise (e := .invalidArgument) (hexec.trans (congrArg Host.Outcome.next (setField_absent code s h)))

/-- Settles O29: the unrecognised rows raise by definition. -/
theorem setUnrecognisedRaisesInvalidArgument : Obligations.SetUnrecognisedRaisesInvalidArgument :=
  ⟨fun field hfield => (decodeCmd_set field).trans (decodeSet_of_namesNoField (decide_eq_true hfield)),
    fun _ _ => endsUnchanged_of_raise (e := .invalidArgument) rfl⟩

/-! ## SET PULL -/

/-- A SET of the virtual field, with a header: the value is checked and no byte is written (R150, R162). -/
theorem setField_virtual {code : FieldCode} {s : State} (hd : desc code = .virtual)
    (hp : s.port.hdrPresent = true) :
    setField code s = if s.port.wdata = Config.pullX1 then s.respondOk else s.raise .invalidValue := by
  by_cases hv : s.port.wdata = Config.pullX1
  · have hresult : setResult code s.port.wdata s = .ok s.mem := by
      simp [setResult, hd, hp, hv]
    simp only [setField, hresult, if_pos hv]
  · have hresult : setResult code s.port.wdata s = .error .invalidValue := by
      simp [setResult, hd, hp, hv]
    simp only [setField, hresult, if_neg hv]

/-- Settles O28: code 11 is the virtual field, and neither branch of its value check writes. -/
theorem setPullChecksAndWritesNothing : Obligations.SetPullChecksAndWritesNothing := by
  refine ⟨rfl, fun s => ⟨fun hp hv => ?_, fun hp hv => ?_, set_absent_endsUnchanged (code := 11) rfl⟩⟩
  · have hset : setField 11 s = s.respondOk := (setField_virtual rfl hp).trans (if_pos hv)
    exact ⟨_, _, congrArg Host.Outcome.next hset, s.respondOk_response, ⟨rfl, rfl, rfl, fun _ _ => rfl⟩, rfl, rfl⟩
  · have hset : setField 11 s = s.raise .invalidValue := (setField_virtual rfl hp).trans (if_neg hv)
    exact endsUnchanged_of_raise (e := .invalidValue) (congrArg Host.Outcome.next hset)

/-! ## The header bytes of a field -/

/-- The offsets of the header bytes in which a field has a bit of its mask (R24, R101). -/
def Field.offsets (f : Field) : List Nat :=
  ((List.range f.sel.size).filter fun i => f.mask.extractLsb' (8 * (f.sel.size - 1 - i)) 8 ≠ 0).map (f.sel.off + ·)

theorem Field.mask_byte_eq_zero {f : Field} {i : Nat} (hi : i < f.sel.size) (h : f.sel.off + i ∉ f.offsets) :
    f.mask.extractLsb' (8 * (f.sel.size - 1 - i)) 8 = 0 := by
  by_contra hne
  exact h (List.mem_map_of_mem (List.mem_filter.mpr ⟨List.mem_range.mpr hi, decide_eq_true hne⟩))

/-- Where the mask has no bit, Insert keeps the old byte (R103). -/
theorem insertBits_extractLsb'_of_mask {n start : Nat} (w v mask : BitVec n) (shift : Nat)
    (h : mask.extractLsb' start 8 = 0) :
    (insertBits w v mask shift).extractLsb' start 8 = w.extractLsb' start 8 := by
  ext j hj
  have hbit : mask.getLsbD (start + j) = false := by
    simpa [hj] using congrArg (BitVec.getLsbD · j) h
  simp only [insertBits, BitVec.getElem_extractLsb', BitVec.getLsbD_or, BitVec.getLsbD_and, BitVec.getLsbD_not, hbit]
  simpa using BitVec.lt_of_getLsbD

/-- A field write leaves every byte in which the field has no bit as it was (R103, R106). -/
theorem readByte_fieldPut_of_offsets (m : Memory) (b : Nat) (f : Field) (v : Value) {a : Nat}
    (h : ∀ k ∈ f.offsets, a ≠ headerAddr b k) : readByte (fieldPut m b f v) a = readByte m a := by
  by_cases hin : headerAddr b f.sel.off ≤ a ∧ a < headerAddr b f.sel.off + f.sel.size
  · obtain ⟨i, rfl⟩ := Nat.exists_eq_add_of_le hin.1
    have hi : i < f.sel.size := by omega
    have hmask := Field.mask_byte_eq_zero hi fun hk => h _ hk (Nat.add_assoc _ _ _)
    rw [← memRead_extractLsb' _ f.sel.size _ i hi, ← memRead_extractLsb' _ f.sel.size _ i hi]
    exact (congrArg _ (wordRead_fieldPut_same m b f v)).trans (insertBits_extractLsb'_of_mask _ _ _ _ hmask)
  · exact readByte_fieldPut_outside m b f v a (by omega)

/-! ## The words after a field write -/

theorem Field.width_le (f : Field) : f.width ≤ 8 * f.sel.size :=
  (Nat.le_add_right _ _).trans f.width_add_shift_le

/-- The container words of `t` are those of `s` after the value `v`, which fits, went into the field (R106, R107). -/
structure FieldStored (f : Field) (v : Value) (s t : State) : Prop where
  lt : v.toNat < 2 ^ f.width
  word : t.word f.sel = insertBits (s.word f.sel) (v.setWidth (8 * f.sel.size)) f.mask f.shift
  word_of_ne : ∀ sel, f.sel ≠ sel → t.word sel = s.word sel

theorem fieldStored_of_fieldPut {f : Field} {v : Value} {s t : State} (hlt : v.toNat < 2 ^ f.width)
    (hport : t.port = s.port) (hmem : t.mem = fieldPut s.mem s.port.buf f v) : FieldStored f v s t where
  lt := hlt
  word := by rw [← wordRead_eq_word, ← wordRead_eq_word, hport, hmem, wordRead_fieldPut_same]
  word_of_ne sel hne := by rw [← wordRead_eq_word, ← wordRead_eq_word, hport, hmem, wordRead_fieldPut_of_ne _ _ _ hne]

section
variable {f : Field} {v : Value} {s t : State}

theorem FieldStored.setWidth_lt (h : FieldStored f v s t) : (v.setWidth (8 * f.sel.size)).toNat < 2 ^ f.width := by
  rw [BitVec.toNat_setWidth]
  exact (Nat.mod_le _ _).trans_lt h.lt

/-- No bit of a value that fits is lost to the mask of Insert (R103). -/
theorem FieldStored.word_eq (h : FieldStored f v s t) :
    t.word f.sel = (s.word f.sel &&& ~~~f.mask) ||| (v.setWidth (8 * f.sel.size) <<< f.shift) := by
  rw [h.word, insertBits, mask_eq_ones_shiftLeft, ← BitVec.shiftLeft_and_distrib,
    and_ones_of_lt f.width_le h.setWidth_lt]

/-- The field's range of bits of its word holds the value (R104). -/
theorem FieldStored.extractLsb'_eq (h : FieldStored f v s t) :
    (t.word f.sel).extractLsb' f.shift f.width = v.setWidth f.width := by
  have hback : extractBits (t.word f.sel) f.mask f.shift = v.setWidth (8 * f.sel.size) := by
    rw [h.word, mask_eq_ones_shiftLeft, extractBits_insertBits_same _ f.width_add_shift_le h.setWidth_lt]
  calc (t.word f.sel).extractLsb' f.shift f.width
      = (extractBits (t.word f.sel) f.mask f.shift).setWidth f.width := by
        rw [setWidth_extractBits_mask, BitVec.setWidth_eq]
    _ = v.setWidth f.width := by rw [hback, BitVec.setWidth_setWidth_of_le _ f.width_le]

end

/-! ## The SETs of the stored fields -/

/-- A SET that ends with one field write completes with OK and writes the bytes of its field at most (R150). -/
theorem stores_of_fieldPut {f : Field} {v : Value} {s : State} {post : State → Prop} (hp : s.port.hdrPresent = true)
    (hstore : storeValue s.mem s.port.buf f s.port.wdata = .ok (fieldPut s.mem s.port.buf f v))
    (hlt : v.toNat < 2 ^ f.width) (hpost : ∀ t, FieldStored f v s t → post t) : Stores f.setter s f.offsets post := by
  have hset : setField f.code s = State.respondOk { s with mem := fieldPut s.mem s.port.buf f v } := by
    rw [setField_stored (desc_code f) hp, hstore]
  refine ⟨_, _, (exec_setter f s).trans (congrArg Host.Outcome.next hset), State.respondOk_response _,
    ⟨rfl, rfl, rfl, fun a ha => ?_⟩, rfl, hpost _ (fieldStored_of_fieldPut hlt rfl rfl)⟩
  exact readByte_fieldPut_of_offsets s.mem s.port.buf f v ha

/-- A SET whose value is refused changes nothing (R150, R182). -/
theorem set_refused_endsUnchanged {f : Field} {s : State} (hp : s.port.hdrPresent = true)
    (hstore : storeValue s.mem s.port.buf f s.port.wdata = .error .invalidValue) : EndsUnchanged f.setter s 0b10 := by
  apply endsUnchanged_of_raise (e := .invalidValue)
  rw [exec_setter, setField_stored (desc_code f) hp, hstore]

/-- The SET rule of a stored field without a translator: the accepted values are those that fit (R107, R150). -/
theorem setRule_setter {f : Field} (ht : f.isTranslated = false) {accepts : Value → Prop}
    (haccepts : ∀ v, accepts v ↔ v.toNat < 2 ^ f.width) {post : State → State → Prop}
    (hpost : ∀ s t, FieldStored f s.port.wdata s t → post s t) :
    SetRule ((0b01 : BitVec 2) ++ f.code) f.setter accepts f.offsets post := by
  refine ⟨decodeCmd_setter f, fun s => ⟨fun hp hv => ?_, fun hp hv => ?_, set_absent_endsUnchanged (exec_setter f s)⟩⟩
  · have hlt := (haccepts _).mp hv
    exact stores_of_fieldPut hp (by simp [storeValue, ht, fits, hlt]) hlt (hpost s)
  · have hge := mt (haccepts _).mpr hv
    exact set_refused_endsUnchanged hp (by simp [storeValue, ht, fits, Nat.not_lt.mp hge])

/-- Settles O23: every value fits the 64 bits of STREAM_ID, whose mask forgets the whole old word. -/
theorem setStreamIdStoresAllBits : Obligations.SetStreamIdStoresAllBits := by
  refine setRule_setter (f := .streamId) rfl (fun v => iff_of_true trivial v.isLt) fun s t h => ⟨?_, ?_, ?_⟩
  · exact h.word.trans ((insertBits_allOnes_zero _ _).trans (BitVec.setWidth_eq _))
  · exact h.word_of_ne .a (by decide)
  · exact h.word_of_ne .b (by decide)

/-- Settles O24: a flag is a field of width 1 of word A, with its mask in one byte. -/
theorem setFlagWritesItsBitOnly : Obligations.SetFlagWritesItsBitOnly :=
  ⟨setRule_setter (f := .sv) rfl (fun _ => Iff.rfl) fun _ _ h => h.word_eq,
    setRule_setter (f := .mr) rfl (fun _ => Iff.rfl) fun _ _ h => h.word_eq,
    setRule_setter (f := .fs) rfl (fun _ => Iff.rfl) fun _ _ h => h.word_eq,
    setRule_setter (f := .tv) rfl (fun _ => Iff.rfl) fun _ _ h => h.word_eq,
    setRule_setter (f := .tu) rfl (fun _ => Iff.rfl) fun _ _ h =>
      h.word_eq.trans (congrArg _ (BitVec.shiftLeft_zero _))⟩

/-- Settles O25: SEQ_NUM is the third byte of word A. -/
theorem setSeqNumWritesByteTen : Obligations.SetSeqNumWritesByteTen :=
  setRule_setter (f := .seqNum) rfl (fun _ => Iff.rfl) fun _ t h =>
    ⟨h.word_eq, (word_byte t .a 2 (by decide)).symm.trans h.extractLsb'_eq⟩

/-- In word B, whose width is the value bus's, the value goes in as it stands. -/
theorem setWidth_wordB (v : Value) : v.setWidth (8 * WordSel.b.size) = v :=
  BitVec.setWidth_eq v

/-- Settles O26: the three fields of width 16 of word B, each with its mask in two bytes. -/
theorem setSixteenBitFieldsOfWordB : Obligations.SetSixteenBitFieldsOfWordB := by
  refine ⟨setRule_setter (f := .type) rfl (fun _ => Iff.rfl) fun s t h => ?_,
    setRule_setter (f := .crfDataLen) rfl (fun _ => Iff.rfl) fun s t h => ?_,
    setRule_setter (f := .timestampInterval) rfl (fun _ => Iff.rfl) fun s t h => ?_⟩
  all_goals rw [← setWidth_wordB s.port.wdata]
  · exact h.word_eq
  · exact h.word_eq
  · exact h.word_eq.trans (congrArg _ (BitVec.shiftLeft_zero _))

/-! ## SET BASE_FREQ -/

/-- A rate of the table goes into BASE_FREQ as its wire code (R150, R159). -/
theorem storeValue_baseFreq_of_ok {r : Value} {c : Byte} (h : freqEncode r = .ok c) (m : Memory) (b : Nat) :
    storeValue m b .baseFreq r = .ok (fieldPut m b .baseFreq (c.setWidth 64)) := by
  simp [storeValue, Field.isTranslated, h]

theorem storeValue_baseFreq_of_error {r : Value} {e : ErrorKind} (h : freqEncode r = .error e) (m : Memory) (b : Nat) :
    storeValue m b .baseFreq r = .error e := by
  simp [storeValue, Field.isTranslated, h]

/-- A wire code fits the 8 bits of BASE_FREQ. -/
theorem wireCode_lt (c : Byte) : (c.setWidth 64 : Value).toNat < 2 ^ Field.width .baseFreq := by
  rw [BitVec.toNat_setWidth_of_le (by decide)]
  exact c.isLt

/-- Settles O27: the translator accepts the table rates and answers the code of the row, which is the fifth byte of
word B. -/
theorem setBaseFreqStoresTheWireCode : Obligations.SetBaseFreqStoresTheWireCode := by
  refine ⟨rfl, fun s => ⟨fun hp hv => ?_, fun hp hv => ?_, set_absent_endsUnchanged (exec_setter .baseFreq s)⟩⟩
  · obtain ⟨c, hc⟩ := (exists_freqEncode_iff _).mpr ((mem_tableRates_iff _).mp hv)
    refine stores_of_fieldPut (f := .baseFreq) hp (storeValue_baseFreq_of_ok hc _ _) (wireCode_lt c) fun t h =>
      ⟨c, (freqEncode_eq_ok_iff _ c).mp hc, ?_, ?_⟩
    · calc t.hdr 16 = (c.setWidth 64).setWidth 8 :=
            (word_byte t .b 4 (by decide)).symm.trans h.extractLsb'_eq
        _ = c := by rw [BitVec.setWidth_setWidth_of_le c (by decide), BitVec.setWidth_eq]
    · rw [← setWidth_wordB (c.setWidth 64)]
      exact h.word_eq
  · have henc := freqEncode_of_not_mem (mt (mem_tableRates_iff _).mpr hv)
    exact set_refused_endsUnchanged (f := .baseFreq) hp (storeValue_baseFreq_of_error henc _ _)

end Sys2Proof.Machine
end

section
/-! INIT (R170 to R174): the container words and header bytes it leaves, what every GET answers after it, and the inputs
it does not read. -/

namespace Sys2Proof.Machine

/-! ## What INIT writes -/

/-- An INIT writes the twenty bytes of its header at most (R36, R170). -/
theorem initHeader_writesAtMost (s : State) : WritesAtMost (List.range 20) s (initHeader s) :=
  ⟨initHeader_port s, exec_pending (i := .init 0) rfl, initHeader_collabAnswer s, fun _ ha =>
    readByte_initHeader_outside_header s (outside_header_of_ne fun k hk => ha k (List.mem_range.mpr hk))⟩

/-- Every header byte is a byte of one of the container words (R20, R100). -/
theorem WordSel.exists_off_add {k : Nat} (hk : k < hdrBytes) : ∃ sel : WordSel, ∃ i < sel.size, k = sel.off + i := by
  simp only [hdrBytes] at hk
  obtain hsid | ha | hb : k < 8 ∨ (8 ≤ k ∧ k < 12) ∨ 12 ≤ k := by omega
  · exact ⟨.sid, k, hsid, (Nat.zero_add k).symm⟩
  · exact ⟨.a, k - 8, by simp only [WordSel.size]; omega, by simp only [WordSel.off]; omega⟩
  · exact ⟨.b, k - 12, by simp only [WordSel.size]; omega, by simp only [WordSel.off]; omega⟩

/-- After a failed call of the collaborator the zeroed header stays (R173). -/
theorem hdr_initHeader_of_error {s : State} (hp : s.port.hdrPresent = true) {e : ErrorKind}
    (hc : s.collabAnswer = .error e) {k : Nat} (hk : k < hdrBytes) : (initHeader s).hdr k = 0 := by
  obtain ⟨sel, i, hi, rfl⟩ := WordSel.exists_off_add hk
  rw [← word_byte _ sel i hi, ← wordRead_eq_word, initHeader_port, initHeader_error s hp e hc, State.raise_mem,
    wordRead_zeroBytes]
  exact BitVec.extractLsb'_zero

/-- The container words after an INIT that returns OK (R172). -/
def initWord (sel : WordSel) : BitVec (8 * sel.size) :=
  match sel with
  | .sid => (0 : BitVec 64)
  | .a => (0x00810000 : BitVec 32)
  | .b => (0 : BitVec 64)

theorem initWord_extractLsb' (sel : WordSel) : ∀ i < sel.size,
    (initWord sel).extractLsb' (8 * (sel.size - 1 - i)) 8 = if sel.off + i = 9 then 0x81 else 0 := by
  cases sel <;> decide

/-- On a zeroed header SV and TV, fields of word A, are the only bits set (R172). -/
theorem wordRead_flags_of_zero {m : Memory} {b : Nat} (hzero : ∀ sel, wordRead m b sel = 0) (sel : WordSel) :
    wordRead (fieldPut (fieldPut m b .sv 1) b .tv 1) b sel = initWord sel := by
  cases sel with
  | a =>
    have hsv : wordRead (fieldPut m b .sv 1) b .a = (0x00800000 : BitVec 32) :=
      (wordRead_fieldPut_same m b .sv 1).trans (by rw [hzero]; rfl)
    exact (wordRead_fieldPut_same _ b .tv 1).trans (by simp only [Field.sel, hsv]; decide)
  | sid | b =>
    rw [wordRead_fieldPut_of_ne _ _ _ (by decide), wordRead_fieldPut_of_ne _ _ _ (by decide), hzero]
    rfl

/-- The header the request names holds the words of a successful INIT. -/
def State.Initialised (u : State) : Prop :=
  ∀ sel, u.word sel = initWord sel

/-- The header of a successful INIT is read as such through every later request that names it. -/
theorem initialised_of_initHeader {s u : State} (hp : s.port.hdrPresent = true) (hc : s.collabAnswer = .ok)
    (hmem : u.mem = (initHeader s).mem) (hbuf : u.port.buf = s.port.buf) : u.Initialised := fun sel => by
  rw [← wordRead_eq_word, hmem, hbuf, initHeader_mem_of_ok hp hc]
  exact wordRead_flags_of_zero (wordRead_zeroBytes _ _) sel

/-- `H[9]` holds SV and TV, and every other byte is 0 (R170, R205). -/
theorem State.Initialised.hdr {u : State} (h : u.Initialised) {k : Nat} (hk : k < hdrBytes) :
    u.hdr k = if k = 9 then 0x81 else 0 := by
  obtain ⟨sel, i, hi, rfl⟩ := WordSel.exists_off_add hk
  rw [← word_byte u sel i hi, h sel, initWord_extractLsb' sel i hi]

/-! ## How INIT ends -/

theorem initHeader_response_of_error {s : State} (hp : s.port.hdrPresent = true) {e : ErrorKind}
    (hc : s.collabAnswer = .error e) : ∃ rdata, (initHeader s).response = some ⟨e.bits, rdata⟩ :=
  ⟨_, by rw [initHeader_error s hp e hc, State.raise_response]⟩

theorem initHeader_response_of_ok {s : State} (hp : s.port.hdrPresent = true) (hc : s.collabAnswer = .ok) :
    ∃ rdata, (initHeader s).response = some ⟨0b00, rdata⟩ :=
  ⟨_, by rw [initHeader_ok s hp hc, State.respondOk_response]⟩

theorem initHeader_collabTag_of_ok {s : State} (hp : s.port.hdrPresent = true) (hc : s.collabAnswer = .ok) :
    (initHeader s).collabTag = Config.subtypeCrf := by
  rw [initHeader_ok s hp hc, State.respondOk_collabTag]

/-- Settles O30: without a header a raise; after the collaborator's error the zeroed header; after its OK the words with
SV and TV set. -/
theorem initZeroesTagsAndSetsTwoFlags : Obligations.InitZeroesTagsAndSetsTwoFlags := by
  refine fun field s => ⟨decodeCmd_init field, fun hp => ?_, fun e hp hc => ?_, fun hp hc => ?_⟩
  · exact endsUnchanged_of_raise (e := .invalidArgument) (congrArg Host.Outcome.next (initHeader_absent s hp))
  · obtain ⟨rdata, hr⟩ := initHeader_response_of_error hp hc
    exact ⟨_, rdata, rfl, hr, initHeader_writesAtMost s, fun _ => hdr_initHeader_of_error hp hc⟩
  · obtain ⟨rdata, hr⟩ := initHeader_response_of_ok hp hc
    have hinit : (initHeader s).Initialised := initialised_of_initHeader hp hc rfl (by rw [initHeader_port])
    exact ⟨_, rdata, rfl, hr, initHeader_writesAtMost s, initHeader_collabTag_of_ok hp hc, fun _ => hinit.hdr⟩

/-! ## GET after INIT -/

section
variable {u : State}

theorem State.Initialised.fieldGet_eq (h : u.Initialised) (f : Field) :
    fieldGet u.mem u.port.buf f = if f = .sv ∨ f = .tv then 1 else 0 := by
  rw [fieldGet_eq_word, h f.sel]
  cases f <;> decide

/-- The values the stored fields answer; BASE_FREQ code 0 is the rate 0 (R172). -/
theorem State.Initialised.storedValue_eq (h : u.Initialised) (f : Field) :
    storedValue u.mem u.port.buf f = .ok (if f = .sv ∨ f = .tv then 1 else 0) := by
  rw [storedValue, h.fieldGet_eq]
  cases f <;> rfl

theorem State.Initialised.getter_answers (h : u.Initialised) {f : Field} (htv : f ≠ .tv)
    (hp : u.port.hdrPresent = true) (ho : u.port.outPresent = true) :
    AnswersValue f.getter u (if f = .sv then 1 else 0) := by
  have hget := getField_stored (desc_code f) (hasGet_code htv) hp ho
  simp only [h.storedValue_eq, htv, or_false] at hget
  exact (exec_getter f u).trans (congrArg Host.Outcome.next hget)

end

/-- Settles O31: the words of a successful INIT, and through them its bytes and the value of every field. -/
theorem initLeavesTheDefaults : Obligations.InitLeavesTheDefaults := by
  intro field s hp hc
  have hinit : (initHeader s).Initialised := initialised_of_initHeader hp hc rfl (by rw [initHeader_port])
  refine ⟨_, rfl, hinit .a, hinit .sid, hinit .b, ?_, initHeader_collabTag_of_ok hp hc, fun p hbuf hhdr hout => ?_⟩
  · exact List.map_congr_left fun k hk => hinit.hdr (List.mem_range.mp hk)
  · have hlater : State.Initialised { initHeader s with port := p } := initialised_of_initHeader hp hc rfl hbuf
    obtain ⟨hpull, -⟩ := getPullAnswersTheConstant.2 { initHeader s with port := p }
    refine ⟨hlater.getter_answers (f := .sv) (by decide) hhdr hout, hpull hhdr hout, fun i hi => ?_⟩
    obtain ⟨f, hf, rfl⟩ := List.mem_map.mp
      (show i ∈ (allFields.filter fun f => f ≠ .sv ∧ f ≠ .tv).map Field.getter from hi)
    obtain ⟨hsv, htv⟩ := of_decide_eq_true (List.mem_filter.mp hf).2
    simpa only [if_neg hsv] using hlater.getter_answers htv hhdr hout

/-! ## What INIT does not read -/

/-- INIT reads no signal of its request but `hdr_present` and the name of the header (R174). -/
theorem initHeader_with_port {s : State} {p : Request} (hhdr : p.hdrPresent = s.port.hdrPresent)
    (hbuf : p.buf = s.port.buf) : initHeader { s with port := p } = { initHeader s with port := p } := by
  cases hp : s.port.hdrPresent with
  | false =>
    rw [initHeader_absent s hp, initHeader_absent _ (hhdr.trans hp), State.raise_eq, State.raise_eq]
  | true =>
    obtain hc | ⟨e, hc⟩ := s.collabAnswer_cases
    · rw [initHeader_ok s hp hc, initHeader_ok { s with port := p } (hhdr.trans hp) hc, State.respondOk_eq,
        State.respondOk_eq, hbuf]
    · rw [initHeader_error s hp e hc, initHeader_error { s with port := p } (hhdr.trans hp) e hc, State.raise_eq,
        State.raise_eq, hbuf]

/-- An INIT that does not end with OK has no header, or its collaborator answered an error (R174). -/
theorem absent_or_error_of_initHeader_status_ne_ok {s : State} {r : Response} (hr : (initHeader s).response = some r)
    (hfail : r.status ≠ 0b00) : s.port.hdrPresent = false ∨ ∃ e, s.collabAnswer = .error e := by
  obtain hc | herr := s.collabAnswer_cases
  · refine .inl (Bool.eq_false_of_not_eq_true fun hp => hfail ?_)
    obtain ⟨rdata, hok⟩ := initHeader_response_of_ok hp hc
    rw [← Option.some.inj (hok.symm.trans hr)]
  · exact .inr herr

/-- A value that fits a field without a translator is stored in every state with a header (R150). -/
theorem setResult_of_fits {f : Field} {v : Value} {s : State} (hp : s.port.hdrPresent = true)
    (ht : f.isTranslated = false) (hfit : fits f v = true) :
    setResult f.code v s = .ok (fieldPut s.mem s.port.buf f v) := by
  simp [setResult, storeValue, hp, ht, hfit]

/-- Settles O32: the two INITs end in states that differ in the request alone, and 1 fits SV and TV. -/
theorem initReadsNoFieldNoValue : Obligations.InitReadsNoFieldNoValue := by
  refine ⟨fun field field' s w o => ?_, fun s hp =>
    ⟨⟨_, setResult_of_fits (f := .sv) hp rfl rfl⟩, ⟨_, setResult_of_fits (f := .tv) hp rfl rfl⟩⟩⟩
  have hsame := initHeader_with_port (s := s) (p := { s.port with wdata := w, outPresent := o }) rfl rfl
  obtain ⟨m, tag, r, d, hx⟩ := initHeader_frame s
  have hr : (initHeader s).response = some r := by rw [hx]
  have hop : (Instr.init field).op ≠ 0b00 := (by decide : (0b10 : BitVec 2) ≠ 0b00)
  exact ⟨_, _, rfl, congrArg Host.Outcome.next hsame, sameAnswer_of_op_ne_get hop hr hr rfl,
    fun _ => rfl, fun _ => rfl, fun _ => absent_or_error_of_initHeader_status_ne_ok⟩

end Sys2Proof.Machine
end

section
/-! The status a transaction reports (R181, R182, R184) and what an error leaves unchanged (R57): the status of the
result that a GET or a SET computes is that of the first check that fails. -/

namespace Sys2Proof.Machine

/-! ## Reported status -/

/-- The transaction completes with `status`, and an error changes nothing but the response and the draw counter. -/
def Reports (i : Instr) (s : State) (status : BitVec 2) : Prop :=
  ∃ t r, exec i s = .next t ∧ t.response = some r ∧ r.status = status ∧
    (r.status ≠ 0b00 → EndsUnchanged i s r.status)

theorem reports_of_raise {i : Instr} {s : State} {e : ErrorKind} (h : exec i s = .next (s.raise e)) :
    Reports i s e.bits :=
  ⟨_, _, h, State.raise_response s e, rfl, fun _ => endsUnchanged_of_raise h⟩

theorem reports_of_ok {i : Instr} {s t : State} {v : Value} (h : exec i s = .next t)
    (hr : t.response = some ⟨0b00, v⟩) : Reports i s 0b00 :=
  ⟨t, _, h, hr, rfl, fun hne => absurd rfl hne⟩

/-- The status of a result: OK for an answer, else that of the error kind (R75). -/
def resultStatus {α : Type} (result : Except ErrorKind α) : BitVec 2 :=
  match result with
  | .ok _ => 0b00
  | .error e => e.bits

@[simp] theorem resultStatus_ok {α : Type} (a : α) : resultStatus (.ok a) = 0b00 := rfl
@[simp] theorem resultStatus_invalidArgument {α : Type} :
    resultStatus (.error .invalidArgument : Except ErrorKind α) = 0b01 := rfl
@[simp] theorem resultStatus_invalidValue {α : Type} :
    resultStatus (.error .invalidValue : Except ErrorKind α) = 0b10 := rfl

theorem get_reports {i : Instr} {s : State} {code : FieldCode} (hexec : exec i s = .next (getField code s)) :
    Reports i s (resultStatus (getResult code s)) := by
  obtain ⟨v, hres, hget⟩ | ⟨e, hres, hget⟩ := getField_cases code s <;> rw [hget] at hexec <;> rw [hres]
  · exact reports_of_ok hexec (State.respondValue_response s v)
  · exact reports_of_raise hexec

theorem set_reports {i : Instr} {s : State} {code : FieldCode} (hexec : exec i s = .next (setField code s)) :
    Reports i s (resultStatus (setResult code s.port.wdata s)) := by
  obtain ⟨m, hres, hset⟩ | ⟨e, hres, hset⟩ := setField_cases code s <;> rw [hset] at hexec <;> rw [hres]
  · exact reports_of_ok hexec (State.respondOk_response _)
  · exact reports_of_raise hexec

/-! ## The first failing check -/

/-- The reserved OP, an absent header and a code without an accessor come before every check that gives another
status (R184). -/
theorem firstError_of_argument {i : Instr} {s : State}
    (h : i.op = 0b11 ∨ s.port.hdrPresent = false ∨ namesNoAccessor i = true) :
    firstError (errorChecks i s) = 0b01 := by
  obtain h | h | h := h <;> simp [errorChecks, firstError, h]

/-- The INIT words are those with OP 0b10 (R72). -/
theorem isInit_eq_op (i : Instr) : isInit i = decide (i.op = 0b10) := by
  cases i <;> rfl

/-- The checks of a GET: the presence inputs, the accessor, the code check (R184). -/
theorem firstError_of_get {i : Instr} (hop : i.op = 0b00) (s : State) :
    firstError (errorChecks i s) =
      if s.port.hdrPresent && s.port.outPresent && !namesNoAccessor i then
        if failsValueCheck i s then 0b10 else 0b00
      else 0b01 := by
  cases hp : s.port.hdrPresent <;> cases ho : s.port.outPresent <;> cases ha : namesNoAccessor i <;>
    simp [errorChecks, firstError, isInit_eq_op, hop, hp, ho, ha]

/-- The checks of a SET: the header, the accessor, the value check; not the result taker (R184). -/
theorem firstError_of_set {i : Instr} (hop : i.op = 0b01) (s : State) :
    firstError (errorChecks i s) =
      if s.port.hdrPresent && !namesNoAccessor i then
        if failsValueCheck i s then 0b10 else 0b00
      else 0b01 := by
  cases hp : s.port.hdrPresent <;> cases ha : namesNoAccessor i <;>
    simp [errorChecks, firstError, isInit_eq_op, hop, hp, ha]

/-- With a header, INIT has the collaborator's answer as its one check (R174, R184). -/
theorem firstError_of_init (field : FieldCode) {s : State} (hp : s.port.hdrPresent = true) :
    firstError (errorChecks (.init field) s) = s.collabAnswer.bits := by
  obtain hc | ⟨e, hc⟩ := s.collabAnswer_cases
  · simp [errorChecks, firstError, Instr.op, namesNoAccessor, failsValueCheck, hp, hc, Status.bits]
  · cases e <;>
      simp [errorChecks, firstError, Instr.op, namesNoAccessor, failsValueCheck, isInit, hp, hc, Status.bits,
        ErrorKind.bits]

/-! ## The code check and the value check -/

/-- The stored value fails to decode exactly on the code check of GET BASE_FREQ (R139, R182). -/
theorem resultStatus_storedValue (f : Field) (s : State) :
    resultStatus (storedValue s.mem s.port.buf f) = if failsValueCheck f.getter s then 0b10 else 0b00 := by
  cases f with
  | baseFreq =>
    rw [storedValue_baseFreq]
    by_cases hge : 11 ≤ (s.hdr 16).toNat
    · simp [freqDecode_of_ge hge, Field.getter, failsValueCheck, hge]
    · obtain ⟨r, hr⟩ := (exists_freqDecode_iff (s.hdr 16)).mpr (Nat.lt_of_not_le hge)
      simp [hr, Field.getter, failsValueCheck, hge]
  | _ => rfl

/-- Outside the translator the value check is the range check (R107, R182). -/
theorem failsValueCheck_setter {f : Field} (ht : f.isTranslated = false) (s : State) :
    failsValueCheck f.setter s = !fits f s.port.wdata := by
  cases f with
  | baseFreq => exact absurd ht (by decide)
  | streamId => rw [fits_streamId]; rfl
  | _ => exact (decide_eq_decide.mpr Nat.not_lt.symm).trans decide_not

/-- A value fails to store exactly on the value check of its SET (R150, R182). -/
theorem resultStatus_storeValue (f : Field) (s : State) :
    resultStatus (storeValue s.mem s.port.buf f s.port.wdata) =
      if failsValueCheck f.setter s then 0b10 else 0b00 := by
  cases ht : f.isTranslated with
  | false =>
    rw [failsValueCheck_setter ht]
    cases hfit : fits f s.port.wdata <;> simp [storeValue, ht, hfit]
  | true =>
    obtain rfl := (isTranslated_iff f).mp ht
    by_cases hmem : s.port.wdata ∈ tableRates
    · obtain ⟨c, hc⟩ := (exists_freqEncode_iff _).mpr ((mem_tableRates_iff _).mp hmem)
      simp [storeValue_baseFreq_of_ok hc, Field.setter, failsValueCheck, hmem]
    · have henc := freqEncode_of_not_mem (mt (mem_tableRates_iff _).mpr hmem)
      simp [storeValue_baseFreq_of_error henc, Field.setter, failsValueCheck, hmem]

/-! ## GET and SET report the first error -/

/-- The transaction reports the first error of the priority list (R184). -/
def ReportsFirstError (i : Instr) (s : State) : Prop :=
  Reports i s (firstError (errorChecks i s))

/-- TV is the one stored field without a GET (R135, R181). -/
theorem namesNoAccessor_getter (f : Field) : namesNoAccessor f.getter = !hasGet f.code := by
  cases f <;> rfl

theorem getter_reportsFirstError (f : Field) (s : State) : ReportsFirstError f.getter s := by
  have hop : f.getter.op = 0b00 := by cases f <;> rfl
  have hstatus : resultStatus (getResult f.code s) = firstError (errorChecks f.getter s) := by
    rw [firstError_of_get hop, namesNoAccessor_getter, ← resultStatus_storedValue]
    cases hp : s.port.hdrPresent <;> cases ho : s.port.outPresent <;> cases hg : hasGet f.code <;>
      simp [getResult, hp, ho, hg]
  rw [ReportsFirstError, ← hstatus]
  exact get_reports (exec_getter f s)

theorem setter_reportsFirstError (f : Field) (s : State) : ReportsFirstError f.setter s := by
  have hop : f.setter.op = 0b01 := by cases f <;> rfl
  have haccessor : namesNoAccessor f.setter = false := by cases f <;> rfl
  have hstatus : resultStatus (setResult f.code s.port.wdata s) = firstError (errorChecks f.setter s) := by
    rw [firstError_of_set hop, haccessor, ← resultStatus_storeValue]
    cases hp : s.port.hdrPresent <;> simp [setResult, hp]
  rw [ReportsFirstError, ← hstatus]
  exact set_reports (exec_setter f s)

theorem getPull_reportsFirstError (s : State) : ReportsFirstError .getPull s := by
  have hstatus : resultStatus (getResult 11 s) = firstError (errorChecks .getPull s) := by
    rw [firstError_of_get rfl]
    cases hp : s.port.hdrPresent <;> cases ho : s.port.outPresent <;>
      simp [getResult, hasGet, desc, namesNoAccessor, failsValueCheck, hp, ho]
  rw [ReportsFirstError, ← hstatus]
  exact get_reports rfl

theorem setPull_reportsFirstError (s : State) : ReportsFirstError .setPull s := by
  have hstatus : resultStatus (setResult 11 s.port.wdata s) = firstError (errorChecks .setPull s) := by
    rw [firstError_of_set rfl]
    cases hp : s.port.hdrPresent <;> by_cases hv : s.port.wdata = Config.pullX1 <;>
      simp [setResult, desc, namesNoAccessor, failsValueCheck, hp, hv]
  rw [ReportsFirstError, ← hstatus]
  exact set_reports rfl

/-- An instruction that raises InvalidArgument where a check before the value check fails. -/
theorem reportsFirstError_of_argument {i : Instr} {s : State}
    (h : i.op = 0b11 ∨ s.port.hdrPresent = false ∨ namesNoAccessor i = true)
    (hexec : exec i s = .next (s.raise .invalidArgument)) : ReportsFirstError i s := by
  rw [ReportsFirstError, firstError_of_argument h]
  exact reports_of_raise hexec

/-- A transaction that is no INIT past its presence check reports the first error and, with an error, changes
nothing (R57, R184). -/
theorem reportsFirstError {i : Instr} {s : State} (h : isInit i = false ∨ s.port.hdrPresent = false) :
    ReportsFirstError i s := by
  cases i with
  | getStreamId => exact getter_reportsFirstError .streamId s
  | getSv => exact getter_reportsFirstError .sv s
  | getMr => exact getter_reportsFirstError .mr s
  | getFs => exact getter_reportsFirstError .fs s
  | getTv => exact getter_reportsFirstError .tv s
  | getTu => exact getter_reportsFirstError .tu s
  | getSeqNum => exact getter_reportsFirstError .seqNum s
  | getType => exact getter_reportsFirstError .type s
  | getBaseFreq => exact getter_reportsFirstError .baseFreq s
  | getCrfDataLen => exact getter_reportsFirstError .crfDataLen s
  | getTimestampInterval => exact getter_reportsFirstError .timestampInterval s
  | getPull => exact getPull_reportsFirstError s
  | setStreamId => exact setter_reportsFirstError .streamId s
  | setSv => exact setter_reportsFirstError .sv s
  | setMr => exact setter_reportsFirstError .mr s
  | setFs => exact setter_reportsFirstError .fs s
  | setTv => exact setter_reportsFirstError .tv s
  | setTu => exact setter_reportsFirstError .tu s
  | setSeqNum => exact setter_reportsFirstError .seqNum s
  | setType => exact setter_reportsFirstError .type s
  | setBaseFreq => exact setter_reportsFirstError .baseFreq s
  | setCrfDataLen => exact setter_reportsFirstError .crfDataLen s
  | setTimestampInterval => exact setter_reportsFirstError .timestampInterval s
  | setPull => exact setPull_reportsFirstError s
  | getUnrecognised | setUnrecognised => exact reportsFirstError_of_argument (.inr (.inr rfl)) rfl
  | rsv => exact reportsFirstError_of_argument (.inl rfl) rfl
  | init =>
    have hp : s.port.hdrPresent = false := h.resolve_left Bool.noConfusion
    exact reportsFirstError_of_argument (.inr (.inl hp)) (congrArg Host.Outcome.next (initHeader_absent s hp))

/-! ## INIT with a header -/

/-- An INIT with a header reports the collaborator's answer (R170, R173). -/
theorem initHeader_response {s : State} (hp : s.port.hdrPresent = true) :
    ∃ rdata, (initHeader s).response = some ⟨s.collabAnswer.bits, rdata⟩ := by
  obtain hc | ⟨e, hc⟩ := s.collabAnswer_cases <;> rw [hc]
  · exact initHeader_response_of_ok hp hc
  · exact initHeader_response_of_error hp hc

/-- Settles O35: an INIT with a header reports the collaborator and, where that is an error, leaves the zeroed header;
every other transaction reports the first error of the list, before any write. -/
theorem statusIsTheFirstErrorInPriorityOrder : Obligations.StatusIsTheFirstErrorInPriorityOrder := by
  intro i s
  by_cases h : isInit i = false ∨ s.port.hdrPresent = false
  · obtain ⟨t, r, hx, hr, hstatus, hkeep⟩ := reportsFirstError h
    refine ⟨t, r, hx, hr, hstatus, fun hne _ => hkeep hne, fun _ hi hp => ?_⟩
    simp [hi, hp] at h
  · obtain ⟨hi, hp⟩ : isInit i = true ∧ s.port.hdrPresent = true := by simpa using h
    cases i with
    | init field =>
      obtain ⟨rdata, hr⟩ := initHeader_response hp
      refine ⟨_, _, rfl, hr, (firstError_of_init field hp).symm, fun _ hno => absurd hno h, fun hne _ _ k hk => ?_⟩
      obtain hc | ⟨e, hc⟩ := s.collabAnswer_cases
      · exact absurd (congrArg Status.bits hc) hne
      · exact hdr_initHeader_of_error hp hc hk
    | _ => cases hi

end Sys2Proof.Machine
end

section
/-! Reset and hazards (R200 to R208): the block waits after reset and between requests, and a GET after a SET answers
the value set, or what it answered before where it names another field. -/

namespace Sys2Proof.Machine

/-! ## Waiting and reset -/

/-- Settles O38: with nothing pending there is no transaction to run. -/
theorem stepWaitsWithoutRequest : Obligations.StepWaitsWithoutRequest := by
  intro s hp
  rw [step, State.nextRequest, hp]

theorem resetWith_inv {m : Memory} (tag : Byte) (h : Memory.wf m = true) : (State.resetWith m tag).Inv :=
  ⟨h, rfl⟩

/-- Settles O41: reset drives no status and keeps the memory that the outside supplies. -/
theorem resetMeetsTheInvariant : Obligations.ResetMeetsTheInvariant :=
  ⟨resetWith_inv 0 reset_mem_wf, fun _ tag h => resetWith_inv tag h⟩

/-- Settles O42: the ports and the list by the definition of reset, and the step because nothing is pending. -/
theorem resetLeavesResponsePortsUndriven : Obligations.ResetLeavesResponsePortsUndriven :=
  ⟨fun m tag => ⟨rfl, rfl, rfl, rfl, stepWaitsWithoutRequest (State.resetWith m tag) rfl⟩, rfl⟩

/-! ## A field read after a field write -/

/-- A value that fits the field reads back as it was written (R104, R106). -/
theorem fieldGet_fieldPut_same (m : Memory) (b : Nat) {f : Field} {v : Value} (hv : v.toNat < 2 ^ f.width) :
    fieldGet (fieldPut m b f v) b f = v := by
  have hword : v.toNat < 2 ^ (8 * f.sel.size) := hv.trans_le (Nat.pow_le_pow_right (by decide) f.width_le)
  have htoNat : (v.setWidth (8 * f.sel.size)).toNat = v.toNat := by
    rw [BitVec.toNat_setWidth, Nat.mod_eq_of_lt hword]
  rw [fieldGet, wordRead_fieldPut_same, mask_eq_ones_shiftLeft,
    extractBits_insertBits_same _ f.width_add_shift_le (htoNat ▸ hv)]
  apply BitVec.eq_of_toNat_eq
  rw [BitVec.toNat_setWidth, htoNat, Nat.mod_eq_of_lt v.isLt]

/-- A field write keeps the bits of every container word that are outside its mask (R104). -/
theorem wordRead_fieldPut_and_of_disjoint (m : Memory) (b : Nat) {f : Field} (v : Value) {sel : WordSel}
    {keep : BitVec (8 * sel.size)} (h : f.sel = sel → f.mask.toNat &&& keep.toNat = 0) :
    wordRead (fieldPut m b f v) b sel &&& keep = wordRead m b sel &&& keep := by
  by_cases hsel : f.sel = sel
  · subst hsel
    have hdisjoint : f.mask &&& keep = 0 := BitVec.eq_of_toNat_eq (h rfl)
    rw [wordRead_fieldPut_same, insertBits_and_of_disjoint _ _ _ _ _ hdisjoint]
  · rw [wordRead_fieldPut_of_ne _ _ _ hsel]

/-- A write of one field does not show in another: either the words differ, or the masks share no bit (R104, R106). -/
theorem fieldGet_fieldPut_of_ne (m : Memory) (b : Nat) {f g : Field} (v : Value) (hne : f ≠ g) :
    fieldGet (fieldPut m b f v) b g = fieldGet m b g := by
  rw [fieldGet, fieldGet, extractBits, extractBits, wordRead_fieldPut_and_of_disjoint m b v (mask_disjoint hne)]

/-! ## The stored values after an accepted SET -/

/-- The field written decodes to the value set: directly, or because the translator's directions are inverse to each
other (R122, R208). -/
theorem storedValue_same_of_storeValue {m m' : Memory} {b : Nat} {f : Field} {v : Value}
    (h : storeValue m b f v = .ok m') : storedValue m' b f = .ok v := by
  cases ht : f.isTranslated with
  | false =>
    obtain ⟨hfit, rfl⟩ : fits f v = true ∧ fieldPut m b f v = m' := by simpa [storeValue, ht, ite_eq_iff] using h
    simp [storedValue, ht, fieldGet_fieldPut_same m b ((fits_iff_lt f v).mp hfit)]
  | true =>
    obtain rfl := (isTranslated_iff f).mp ht
    cases henc : freqEncode v with
    | error e => simp [storeValue_baseFreq_of_error henc] at h
    | ok c =>
      obtain rfl := Except.ok.inj ((storeValue_baseFreq_of_ok henc m b).symm.trans h)
      have hcode : ((c.setWidth 64 : Value).setWidth 8) = c := by
        rw [BitVec.setWidth_setWidth_of_le c (by decide), BitVec.setWidth_eq]
      simp only [storedValue, ht, if_true, fieldGet_fieldPut_same m b (wireCode_lt c), hcode]
      exact (freqEncode_eq_ok_iff_freqDecode v c).mp henc

/-- Every other field decodes to what it held (R208). -/
theorem storedValue_of_ne_of_storeValue {m m' : Memory} {b : Nat} {f g : Field} {v : Value}
    (h : storeValue m b f v = .ok m') (hne : f ≠ g) : storedValue m' b g = storedValue m b g := by
  obtain ⟨w, rfl⟩ := storeValue_cases h
  rw [storedValue, storedValue, fieldGet_fieldPut_of_ne m b w hne]

/-! ## A GET after a SET -/

/-- A SET of a stored field that completes with OK had a header and stored its value there (R150). -/
theorem storeValue_of_setResult {f : Field} {v : Value} {s : State} {m : Memory}
    (h : setResult f.code v s = .ok m) : storeValue s.mem s.port.buf f v = .ok m := by
  obtain ⟨hp, -⟩ := setResult_cases h
  simpa [setResult, hp] using h

/-- A GET of a stored field, with both presence inputs 1, answers the value that the field decodes to (R130). -/
theorem getter_answers_of_storedValue {f : Field} {s : State} {v : Value} (htv : f ≠ .tv)
    (hp : s.port.hdrPresent = true) (ho : s.port.outPresent = true)
    (hv : storedValue s.mem s.port.buf f = .ok v) : AnswersValue f.getter s v := by
  have hget := getField_stored (desc_code f) (hasGet_code htv) hp ho
  rw [hv] at hget
  exact (exec_getter f s).trans (congrArg Host.Outcome.next hget)

/-- A GET of a stored field depends on its request and on what that field decodes to (R130). -/
theorem getResult_code_congr {f : Field} {s u : State} (hp : s.port = u.port)
    (hv : storedValue s.mem u.port.buf f = storedValue u.mem u.port.buf f) :
    getResult f.code s = getResult f.code u := by
  simp only [getResult, desc_code, hp, hv]

/-- Settles O46: an accepted SET fixes what every stored field decodes to, and a GET answers that. -/
theorem getAfterSetSeesTheFieldSet : Obligations.GetAfterSetSeesTheFieldSet := by
  intro f s
  obtain ⟨m, hres, hset⟩ | ⟨e, -, hset⟩ := setField_cases f.code s
  · refine ⟨_, _, exec_setter f s, hset ▸ State.respondOk_response _, fun _ p hbuf => ⟨fun htv hp ho => ?_,
      fun g hne => ⟨_, _, exec_getter g _, exec_getter g _, ?_⟩⟩⟩
    all_goals
      have hstore := storeValue_of_setResult hres
      rw [← hbuf] at hstore
      rw [hset]
    · exact getter_answers_of_storedValue htv hp ho (storedValue_same_of_storeValue hstore)
    · exact getField_sameAnswer _ <| getResult_code_congr rfl (storedValue_of_ne_of_storeValue hstore hne.symm).symm
  · exact ⟨_, _, exec_setter f s, hset ▸ State.raise_response s e, fun hok => absurd hok e.bits_ne.2⟩

end Sys2Proof.Machine
end
